-- ==== Sys2Proof/Word.lean ====
section
/-!
DEFINITION. The widths of the AP3160 and its stored word (spec 01, R2, R3).
-/

namespace Sys2Proof

/-- The 64 data bits of one stored word (R2). -/
abbrev DataWord := BitVec 64

/-- The identifier software gives a command (R128). -/
abbrev Tag := BitVec 16

/-- A bit position in a stored word: 0..63 data, 64..71 check bits (R2). -/
abbrev BitPos := Fin 72

/-- A stored word: its data, its condition and, for SINGLE only, its one wrong bit (R3).
The data of CLEAN and SINGLE is the data as last written; of MULTI it is the stored bits as they stand;
a POISON word's data is always zero and is not held. -/
inductive StoredWord where
  | clean (data : DataWord)
  | single (data : DataWord) (bit : BitPos)
  | multi (bits : DataWord)
  | poison
deriving DecidableEq, Repr, Inhabited

end Sys2Proof
end

