-- ==== Sys2Proof/Syntax.lean ====
section
/-!
DEFINITION. The commands of the AP3160: one constructor per row of spec/opcode_table.json.
-/

namespace Sys2Proof

/-- What the memory does to one stored word of its own accord (R5). -/
inductive Disturbance where
  /-- A CLEAN word becomes SINGLE with this bit position. -/
  | toSingle (bit : BitPos)
  /-- A CLEAN or SINGLE word becomes MULTI, or a MULTI word stays MULTI, with these stored bits. -/
  | toMulti (bits : DataWord)
deriving DecidableEq, Repr

/-- The commands the part takes from outside. Widths of record fields are those of spec 11.3 and 11.6;
a host line number has the 28 bits of a 34-bit byte address divided by 64 (R29). -/
inductive Instr where
  /-- Power-on, or assertion of the RESET pin (R1). -/
  | deviceReset (powerOn : Bool)
  /-- Power-on completes or RESET is deasserted, with these strap codes on the pins (R1). -/
  | deviceResetRelease (size : BitVec 3) (spare : BitVec 2)
  /-- The memory changes one stored word of a physical frame (R5). -/
  | disturbance (frame : BitVec 22) (line : Fin 64) (word : Fin 8) (change : Disturbance)
  /-- A host memory read arrives (R30). Bit w of the word mask selects word w (log 23). -/
  | hostRead (line : BitVec 28) (mask : BitVec 8)
  /-- A host memory write arrives (R34). Bits 8k + 7 to 8k of the data are line byte k (log 24). -/
  | hostWrite (line : BitVec 28) (mask : BitVec 64) (data : BitVec 512)
  /-- The tenure of a held host read ends (R32). -/
  | hostReadEnd
  /-- The drain tenure of the head memory entry ends (R36). -/
  | drainEnd
  /-- A CTRL write with START arrives (R111, R115). -/
  | start (value : BitVec 32)
  /-- A CTRL write with QUIESCE arrives (R116). -/
  | quiesce (value : BitVec 32)
  /-- A CTRL write with ENGINE_RESET arrives (R124). -/
  | engineReset (value : BitVec 32)
  /-- A CTRL write arrives; its enable bits are taken (R109). -/
  | enableBits (value : BitVec 32)
  /-- A write of SQ_TAIL arrives (R121). -/
  | sqTail (value : BitVec 32)
  /-- A write of CQ_HEAD (R120). -/
  | cqHead (value : BitVec 32)
  /-- A write of EQ_HEAD (R120). -/
  | eqHead (value : BitVec 32)
  /-- A write of ANCHOR (R121). -/
  | anchor (value : BitVec 32)
  /-- A write of FAULT_INFO with the clear bit set (R176). -/
  | faultInfoClear (value : BitVec 32)
  /-- A write to STAT, FAULT_ADDR or an unnamed offset (R40). -/
  | registerWriteOther (offset : Nat) (value : BitVec 32)
  /-- The anchor read ends (R112). -/
  | anchorReadEnd
  /-- A command fetch tenure ends (R130). -/
  | fetchEnd
  /-- A completion or event post tenure ends (R119). -/
  | ringPostEnd
  /-- A Copy Step ends (R76). -/
  | copyStepEnd
  /-- A slot's tenure ends (R139). -/
  | slotTenureEnd
  /-- A patrol tenure ends (R103). -/
  | patrolTenureEnd
  /-- The patrol timer expires (R102). -/
  | patrolExpiry
  /-- A SCRUB record (R148). -/
  | scrub (tag : Tag) (first length : BitVec 32) (poison : Bool)
  /-- A VERIFY record (R150). -/
  | verify (tag : Tag) (first length : BitVec 32)
  /-- A FILL record (R151). -/
  | fill (tag : Tag) (first length : BitVec 32) (pattern : DataWord)
  /-- A COPY record (R153). -/
  | copy (tag : Tag) (source destination length : BitVec 32)
  /-- A RETIRE record (R158). -/
  | retire (tag : Tag) (frame : BitVec 32)
  /-- An INSTALL record (R159). -/
  | install (tag : Tag) (frame : BitVec 32) (spare : BitVec 16)
  /-- A WITHDRAW_SPARE record (R160). -/
  | withdrawSpare (tag : Tag) (spare : BitVec 16)
  /-- A QUERY record (R161). -/
  | query (tag : Tag) (frame : BitVec 32)
  /-- A CLEAR_SUSPECT record (R162). -/
  | clearSuspect (tag : Tag) (frame : BitVec 32)
  /-- A SET_REGION record (R163). -/
  | setRegion (tag : Tag) (index : BitVec 8) (valid : Bool) (base : BitVec 64) (exponent : BitVec 8)
      (attributes : BitVec 4)
  /-- A SET_PATROL record (R164). -/
  | setPatrol (tag : Tag) (enable : Bool) (interval : BitVec 16) (restart : Bool)
  /-- A FENCE record (R165). -/
  | fence (tag : Tag)
  /-- An ABORT record (R166). -/
  | abort (tag : Tag) (target : Tag)
deriving DecidableEq, Repr

end Sys2Proof
end

