-- ==== Sys2Proof/Decode.lean ====
section
/-!
DEFINITION. The command a word spells by the bits of spec/opcode_table.json.
The AP3160 is a block: its table gives bits to no row (every row's "fields" list is empty and no row has a "fixed"),
so no word spells a command. Command RECORDS, which software writes into the submission ring, are read in
Machine/Operands.lean, where FETCH_END reads them.
-/

namespace Sys2Proof

/-- No row of spec/opcode_table.json gives bits, so no word spells a command. -/
def decodeTableWord (_nbits _w : Nat) : Option Instr :=
  none

end Sys2Proof
end

