-- ==== Sys2Proof/Config.lean ====
section
/-!
DEFINITION. What the spec leaves open for ever: the contents of memory at power-on.
-/

namespace Sys2Proof

/-- FREE VALUE. What a stored word holds before anything wrote or disturbed it, for each power-on
(the first argument counts them) and each physical word (the second is its key): "arbitrary data and
an arbitrary condition" (R4). It has no body, so nothing can be proved of its value. See log 3. -/
opaque Config.powerOnWord : Nat → Nat → StoredWord

end Sys2Proof
end

