-- ==== Sys2Proof/Machine/State.lean ====
section
/-!
DEFINITION. The state of the AP3160 as plain data, why a step can stop, and the state after device reset.
Each type cites the rule of spec/ that lists its fields. Counts, indices and line and frame numbers are Nat; what
the spec treats as bits (register values, masks, tags, data) is a bit vector.
-/

namespace Sys2Proof.Machine

/-! ### Memory and tenures (spec 01, 02) -/

/-- The stored words (R3, R4). `cells` lists, with strictly rising keys, the physical words that a tenure or a
disturbance has written since power-on; the key of word w of line l of physical frame p is p * 512 + l * 8 + w.
`epoch` counts the power-ons (the model's own field, log 3). -/
structure Memory where
  epoch : Nat
  cells : List (Nat × StoredWord)
deriving DecidableEq, Repr

/-- The outcome of decoding one stored word; CORRECTED reports the bit position (R6). -/
inductive DecodeClass where
  | good
  | corrected (bit : BitPos)
  | uncorrectable
  | poisoned
deriving DecidableEq, Repr

/-- What a tenure left in a word (R7). -/
inductive Written where
  | unchanged
  | clean
  | poison
deriving DecidableEq, Repr

/-- The report of one word of a tenure (R7). A word written without a decode has no class and no data. -/
structure WordReport where
  index : Nat
  decoded : Option (DecodeClass × DataWord)
  written : Written
deriving DecidableEq, Repr

/-- What the requester of the tenure in progress asked for (R19, R21). -/
inductive Work where
  | hostRead
  | drain
  | anchorRead
  | fetch
  | completionPost
  | eventPost
  | copyStep
  | slotStep (slot : Nat)
  | patrolStep
deriving DecidableEq, Repr

/-- The tenure in progress: it has acted on memory at its grant and holds its word reports until its end (R17).
`discarded` marks that its requester has no use for them any more (R18). -/
structure Tenure where
  work : Work
  line : Nat
  reports : List WordReport
  discarded : Bool
deriving DecidableEq, Repr

/-- The channel and the arbiter's own state (R27). The set of waiting requests is the phases of the requesters (log 8). -/
structure Arbiter where
  tenure : Option Tenure
  lastSlot : Nat
  guard : Nat
deriving DecidableEq, Repr

/-- The eight requesters (R19). -/
inductive Requester where
  | port
  | migration
  | ring
  | slot (index : Nat)
  | patrol
deriving DecidableEq, Repr

/-! ### Host Port and Region Table (spec 03) -/

/-- The two registers whose writes pass through the Write Post Buffer (R41). -/
inductive PostedRegister where
  | ctrl
  | sqTail
deriving DecidableEq, Repr

/-- An entry of the Write Post Buffer (R35). -/
inductive PostEntry where
  | memory (line : Nat) (mask : BitVec 64) (data : BitVec 512)
  | register (target : PostedRegister) (value : BitVec 32)
deriving DecidableEq, Repr

/-- The port state with the request it holds (R28). -/
inductive HeldRequest where
  | idle
  | readHeld (line : Nat) (mask : BitVec 8)
  | writeHeld (entry : PostEntry)
deriving DecidableEq, Repr

/-- The response codes of the port (R29, R30, R32, R34). -/
inductive ResponseCode where
  | okay
  | dataError
  | addressError
  | accepted
  | lineProtected
deriving DecidableEq, Repr

/-- One answer of the port: its code and, for a read, the words returned with their indices (R32). -/
structure Answer where
  code : ResponseCode
  words : List (Nat × DataWord)
deriving DecidableEq, Repr

/-- The Host Port: held request, Write Post Buffer (head first), and the latest answer given (log 14). -/
structure Port where
  held : HeldRequest
  buffer : List PostEntry
  answer : Option Answer
deriving DecidableEq, Repr

/-- The four region attributes (R43). -/
structure Attributes where
  writeProtect : Bool
  patrol : Bool
  repair : Bool
  autoRetire : Bool
deriving DecidableEq, Repr

/-- A valid Region Table entry (R43); an invalid one is `none` in the table. -/
structure Region where
  base : Nat
  exponent : Nat
  attributes : Attributes
deriving DecidableEq, Repr

/-! ### Remap Table, Spare Pool, Page Migration, Suspect Table (spec 04, 05, 06) -/

/-- The state of a spare (R48). -/
inductive SpareState where
  | free
  | assigned
  | target
  | failed
deriving DecidableEq, Repr

/-- The state of a Remap Table entry with the fields present in it (R50). -/
inductive RemapState where
  | active (spare : Nat)
  | migrating (current : Option Nat) (target : Nat) (cursor : Nat)
deriving DecidableEq, Repr

/-- A Remap Table entry, keyed by its host frame (R50). -/
structure RemapEntry where
  frame : Nat
  state : RemapState
deriving DecidableEq, Repr

/-- Who asked for a retirement (R66). -/
inductive Origin where
  | auto
  | command (tag : Tag)
deriving DecidableEq, Repr

/-- Why a retirement was asked for (R66). -/
inductive Cause where
  | command
  | threshold
  | uncorrectable
deriving DecidableEq, Repr

/-- A request in the Retire Queue (R66). -/
structure RetireRequest where
  frame : Nat
  origin : Origin
  cause : Cause
deriving DecidableEq, Repr

/-- Where the Copy Step of the migration stands (R71). -/
inductive CopyPhase where
  | waiting
  | inTenure
deriving DecidableEq, Repr

/-- The migration record (R71). -/
structure MigrationRecord where
  frame : Nat
  origin : Origin
  cause : Cause
  target : Nat
  old : Option Nat
  corrected : Nat
  uncorrectable : Nat
  poisonedWords : Nat
  poisonedLines : Nat
  step : CopyPhase
deriving DecidableEq, Repr

/-- Where a frame stands with respect to retirement (R89, R61). -/
inductive RetireState where
  | none
  | queued
  | migrating
  | refused
deriving DecidableEq, Repr

/-- A Suspect Table entry (R89). -/
structure SuspectEntry where
  frame : Nat
  corrected : Nat
  uncorrectable : Nat
  lastLine : Nat
  lastWord : Nat
  retire : RetireState
deriving DecidableEq, Repr

/-- The tables of the part: Region Table (R43), Spare Pool (R48), Remap Table (R50), Retire Queue (R66, head first),
Migration Unit (R71; `none` is IDLE), Suspect Table with its eviction pointer (R89; a free place is `none`). -/
structure Tables where
  regions : List (Option Region)
  defaults : Attributes
  spares : List SpareState
  remap : List RemapEntry
  retireQueue : List RetireRequest
  migration : Option MigrationRecord
  suspects : List (Option SuspectEntry)
  evictionPointer : Nat
deriving DecidableEq, Repr

/-- The patrol's phase, with the tenure line and whether the request is a Repair Read (R100, R102). -/
inductive PatrolPhase where
  | idle
  | waiting (line : Nat) (repair : Bool)
  | inTenure (line : Nat) (repair : Bool)
deriving DecidableEq, Repr

/-- The Patrol Unit (R100). Its timer runs exactly while the patrol is active (log 10). -/
structure Patrol where
  enabled : Bool
  interval : BitVec 16
  cursor : Nat
  phase : PatrolPhase
  disowned : Bool
deriving DecidableEq, Repr

/-! ### Engine Control and Rings (spec 07) -/

/-- The six engine states (R108). -/
inductive EngineState where
  | off
  | starting
  | running
  | quiescing
  | quiesced
  | halted
deriving DecidableEq, Repr

/-- The halt causes (R110, R122). -/
inductive HaltCause where
  | none
  | commandUnreadable
  | badSqTail
  | badCqHead
  | badEqHead
deriving DecidableEq, Repr

/-- The start errors (R110, R113). -/
inductive StartError where
  | none
  | anchorUnreadable
  | anchorVersion
  | ringSize
  | ringPlacement
  | threshold
deriving DecidableEq, Repr

/-- The CTRL enable bits (R109). -/
structure Enables where
  comp : Bool
  event : Bool
  halt : Bool
deriving DecidableEq, Repr

/-- Where a ring lies: byte address of its first record, and k for 2^k entries (R117). -/
structure Ring where
  base : Nat
  exponent : Nat
deriving DecidableEq, Repr

/-- The three rings with the part's own indices and lap bits (R114, R118, R119). -/
structure Rings where
  sq : Ring
  cq : Ring
  eq : Ring
  fetch : Nat
  cqProducer : Nat
  eqProducer : Nat
  cqLap : Bool
  eqLap : Bool
deriving DecidableEq, Repr

/-- Engine Control: the engine's registers and internal state (R110, R127). `anchorRequest` is the line of an anchor
read asked for and not yet granted (R111). -/
structure Engine where
  state : EngineState
  haltCause : HaltCause
  startError : StartError
  enables : Enables
  anchor : BitVec 28
  sqTail : BitVec 16
  cqHead : BitVec 16
  eqHead : BitVec 16
  anchorRequest : Option Nat
  rings : Option Rings
  threshold : Nat
  reportCorrected : Bool
deriving DecidableEq, Repr

/-! ### Command admission (spec 08, 09) -/

/-- The commands that run in slots, with the fields their records carry (R144). -/
inductive SlotCommand where
  | scrub (first length : Nat) (poison : Bool)
  | verify (first length : Nat)
  | fill (first length : Nat) (pattern : DataWord)
  | copy (source destination length : Nat)
deriving DecidableEq, Repr

/-- The thirteen command kinds with the fields their records carry (R144). -/
inductive Command where
  | slot (command : SlotCommand)
  | retire (frame : Nat)
  | install (frame spare : Nat)
  | withdrawSpare (spare : Nat)
  | query (frame : Nat)
  | clearSuspect (frame : Nat)
  | setRegion (index : Nat) (valid : Bool) (base exponent : Nat) (attributes : Attributes)
  | setPatrol (enable : Bool) (interval : BitVec 16) (restart : Bool)
  | fence
  | abort (target : Tag)
deriving DecidableEq, Repr

/-- A command in the pending list (R134). -/
structure PendingCommand where
  tag : Tag
  command : Command
deriving DecidableEq, Repr

/-- The phase of an occupied slot (R138). -/
inductive SlotPhase where
  | waiting
  | inTenure
  | held
deriving DecidableEq, Repr

/-- An occupied slot (R138). `heldLine` is COPY's held line, word by word; `abortedBy` is the aborted mark, with the
tag of the ABORT whose completion is held with the slot (R133). -/
structure Slot where
  tag : Tag
  command : SlotCommand
  progress : Nat
  corrected : Nat
  uncorrectable : Nat
  poisoned : Nat
  heldLine : Option (List (DecodeClass × DataWord))
  phase : SlotPhase
  abortedBy : Option Tag
deriving DecidableEq, Repr

/-- The completion statuses (R142). -/
inductive Status where
  | success
  | dataErrors
  | lineProtected
  | badAddress
  | invalidCommand
  | invalidField
  | duplicateTag
  | aborted
  | notFound
  | noSpare
  | queueFull
  | conflict
deriving DecidableEq, Repr

/-- A completion in the backlog (R142). `accepted` says whether its record was accepted, so that its tag is in the
tag set until it is posted (R128). -/
structure Completion where
  tag : Tag
  kind : BitVec 4
  status : Status
  linesDone : Nat
  corrected : Nat
  uncorrectable : Nat
  poisoned : Nat
  result : BitVec 28
  accepted : Bool
deriving DecidableEq, Repr

/-- Pending list (R134, head first), the slots SLOT0 to SLOT3 (R138), completion backlog (R141, head first). -/
structure Admission where
  pendingList : List PendingCommand
  slots : List (Option Slot)
  backlog : List Completion
deriving DecidableEq, Repr

/-! ### Events and Fault Capture (spec 10) -/

/-- The sources of detections and events (11.1). -/
inductive Source where
  | hostRead
  | hostWrite
  | fetch
  | scrub
  | verify
  | copy
  | patrol
  | migration
deriving DecidableEq, Repr

/-- The event kinds (R167). -/
inductive EventKind where
  | corrected
  | uncorrectable
  | poisonRead
  | mergeFailed
  | writeRefused
  | retireStarted
  | retireDone
  | retireRefused
  | retireAborted
  | spareFailed
  | patrolPass
  | overflow
deriving DecidableEq, Repr

/-- An event record with the fields its kind uses; the others are 0 (R167, R181). -/
structure EventRecord where
  kind : EventKind
  source : Source
  tag : Option Tag := none
  line : Nat := 0
  word : Nat := 0
  bit : Nat := 0
  frame : Nat := 0
  spare : Option Nat := none
  cause : Bool := false
  count : Nat := 0
  firstLost : Option EventKind := none
deriving DecidableEq, Repr

/-- A pending overflow summary (R170). -/
structure Overflow where
  count : Nat
  firstKind : EventKind
  firstSource : Source
deriving DecidableEq, Repr

/-- The kinds of captured errors; CORRECTED carries the bit position (R174). -/
inductive CaptureKind where
  | corrected (bit : BitPos)
  | uncorrectable
  | poisonRead
  | mergeFailed
deriving DecidableEq, Repr

/-- The captured error (R174). Its class follows from its kind. -/
structure Capture where
  kind : CaptureKind
  source : Source
  line : Nat
  word : Nat
  more : Bool
deriving DecidableEq, Repr

/-- Event list (R169, head first), overflow summary (R170), Fault Capture (R174). -/
structure News where
  events : List EventRecord
  overflow : Option Overflow
  capture : Option Capture
deriving DecidableEq, Repr

/-! ### The whole state -/

/-- The strap codes as last sampled (R1). -/
structure Straps where
  size : BitVec 3
  spare : BitVec 2
deriving DecidableEq, Repr

/-- The state of the AP3160 and the queue of commands that wait to be taken. -/
structure State where
  resetAsserted : Bool
  straps : Straps
  attn : Bool
  memory : Memory
  arbiter : Arbiter
  port : Port
  tables : Tables
  patrol : Patrol
  engine : Engine
  admission : Admission
  news : News
  pending : List Instr
deriving DecidableEq, Repr

/-- Why the machine stops with a fault. -/
inductive Fault where
  /-- Raised by DISTURBANCE for a word of a physical frame at or above T, which is not installed (R1, R5).
  Safe: no such word exists, so no run of the part meets it. See log 15. -/
  | noSuchWord
deriving DecidableEq, Repr

/-- Why the machine refuses a command. -/
inductive Refusal where
  /-- Raised by no command of this model: every row of the table has its meaning. It stands because the host's
  interface names it. Safe. -/
  | notModelled (mnemonic : String)
deriving DecidableEq, Repr

/-! ### Reset values -/

/-- All four attributes clear (R47). -/
def Attributes.clear : Attributes := ⟨false, false, false, false⟩

/-- The Patrol Unit after either reset (R107). -/
def Patrol.reset : Patrol := ⟨false, 1000#16, 0, .idle, false⟩

/-- Engine Control after device reset (R127). -/
def Engine.reset : Engine :=
  { state := .off, haltCause := .none, startError := .none, enables := ⟨false, false, false⟩, anchor := 0#28,
    sqTail := 0#16, cqHead := 0#16, eqHead := 0#16, anchorRequest := none, rings := none, threshold := 16,
    reportCorrected := false }

/-- The tables after device reset (R47, R48, R62, R87, R99); the Spare Pool is filled when S is fixed, at the
release of the reset (log 2). -/
def Tables.reset : Tables :=
  { regions := List.replicate 8 none, defaults := .clear, spares := [], remap := [], retireQueue := [],
    migration := none, suspects := List.replicate 32 none, evictionPointer := 0 }

/-- The AP3160 in device reset, before RESET is deasserted (R1; log 1): the values each chapter gives after device
reset, with nothing known of memory (R4) and no command waiting. -/
def State.reset : State :=
  { resetAsserted := true
    straps := ⟨0#3, 0#2⟩
    attn := false
    memory := ⟨0, []⟩
    arbiter := ⟨none, 3, 0⟩
    port := ⟨.idle, [], none⟩
    tables := .reset
    patrol := .reset
    engine := .reset
    admission := ⟨[], List.replicate 4 none, []⟩
    news := ⟨[], none, none⟩
    pending := [] }

end Sys2Proof.Machine
end

