-- ==== Sys2Proof/Machine/Ops.lean ====
section
/-!
DEFINITION. The named operations over memory, the tables' extents and the groups of the state, which every other file
of the machine is written over.
-/

namespace Sys2Proof.Machine

/-! ### One setter per group of the state -/

def State.withReset (s : State) (x : Bool) : State := { s with resetAsserted := x }
def State.withStraps (s : State) (x : Straps) : State := { s with straps := x }
def State.withAttn (s : State) (x : Bool) : State := { s with attn := x }
def State.withMemory (s : State) (x : Memory) : State := { s with memory := x }
def State.withArbiter (s : State) (x : Arbiter) : State := { s with arbiter := x }
def State.withPort (s : State) (x : Port) : State := { s with port := x }
def State.withTables (s : State) (x : Tables) : State := { s with tables := x }
def State.withPatrol (s : State) (x : Patrol) : State := { s with patrol := x }
def State.withEngine (s : State) (x : Engine) : State := { s with engine := x }
def State.withAdmission (s : State) (x : Admission) : State := { s with admission := x }
def State.withNews (s : State) (x : News) : State := { s with news := x }
def State.withPending (s : State) (x : List Instr) : State := { s with pending := x }

/-! ### Installed memory (R1) -/

/-- T, the number of physical frames, by the SIZE code (R1; 00_scope.md, Storage units). -/
def Straps.physicalFrames (p : Straps) : Nat :=
  match p.size.toNat with
  | 0 => 262144
  | 1 => 524288
  | 2 => 1048576
  | 3 => 2097152
  | _ => 4194304

/-- S, the number of spare frames, by the SPARE code (R1; 00_scope.md, Storage units). -/
def Straps.spareFrames (p : Straps) : Nat :=
  match p.spare.toNat with
  | 0 => 0
  | 1 => 16
  | 2 => 32
  | _ => 64

/-- U = T - S, the number of host frames (R1). -/
def Straps.hostFrames (p : Straps) : Nat := p.physicalFrames - p.spareFrames

/-- U * 64: the first host line number beyond host memory (R29). -/
def Straps.hostLines (p : Straps) : Nat := p.hostFrames * 64

/-- The physical frames that exist: T once the straps are sampled; while RESET is asserted they are not, and every
frame a strap code could select is taken to exist (log 15). -/
def State.installedFrames (s : State) : Nat :=
  if s.resetAsserted then 4194304 else s.straps.physicalFrames

/-! ### The stored words (R3, R4) -/

/-- The listed word at a key, if there is one. -/
def cellLookup : List (Nat × StoredWord) → Nat → Option StoredWord
  | [], _ => none
  | (a, w) :: rest, k => if a = k then some w else if k < a then none else cellLookup rest k

/-- Store a word at a key, keeping the keys strictly rising. -/
def cellInsert : List (Nat × StoredWord) → Nat → StoredWord → List (Nat × StoredWord)
  | [], k, v => [(k, v)]
  | (a, w) :: rest, k, v =>
    if k < a then (k, v) :: (a, w) :: rest
    else if k = a then (k, v) :: rest
    else (a, w) :: cellInsert rest k v

/-- The keys rise strictly: the ONE form equal memories have. An unlisted word is one nothing has written since
power-on; no listed word equals "not written", so nothing else is asked of an entry (log 4). -/
def cellsRise : List (Nat × StoredWord) → Bool
  | [] => true
  | [_] => true
  | (a, _) :: (b, w) :: rest => decide (a < b) && cellsRise ((b, w) :: rest)

/-- The canonical form of memory. -/
def Memory.wf (m : Memory) : Bool := cellsRise m.cells

/-- The stored word at a key: what was last stored there, or the free value of power-on (R4, log 3). -/
def Memory.read (m : Memory) (key : Nat) : StoredWord :=
  match cellLookup m.cells key with
  | some w => w
  | none => Config.powerOnWord m.epoch key

/-- Store one word. -/
def Memory.write (m : Memory) (key : Nat) (w : StoredWord) : Memory :=
  { m with cells := cellInsert m.cells key w }

/-- Store the words of a tenure, one after another. -/
def Memory.writeAll (m : Memory) : List (Nat × StoredWord) → Memory
  | [] => m
  | (k, w) :: rest => (m.write k w).writeAll rest

/-- The key of a word of a physical line (R2: the physical line l of frame p is p * 64 + l). -/
def wordKey (physicalLine word : Nat) : Nat := physicalLine * 8 + word

/-! ### The engine's states as the rules group them (R108) -/

/-- RUNNING, QUIESCING or QUIESCED: posting goes on and events are recorded (R108). -/
def EngineState.posts : EngineState → Bool
  | .running | .quiescing | .quiesced => true
  | .off | .starting | .halted => false

/-- RUNNING or QUIESCING: the pending list issues (R108, R135). -/
def EngineState.issues : EngineState → Bool
  | .running | .quiescing => true
  | .off | .starting | .quiesced | .halted => false

/-- Neither OFF nor STARTING: the Retire Queue takes offers and migrations start (R70, R72, R95). -/
def EngineState.retires : EngineState → Bool
  | .running | .quiescing | .quiesced | .halted => true
  | .off | .starting => false

/-! ### Small list operations -/

/-- The place k of a list of places, `none` beyond its end. -/
def placeAt {α : Type} (places : List (Option α)) (k : Nat) : Option α := (places[k]?).join

/-- The lowest-numbered free place. -/
def firstFree {α : Type} (places : List (Option α)) : Option Nat := places.findIdx? (·.isNone)

/-- Every place is free. -/
def allFree {α : Type} (places : List (Option α)) : Bool := places.all (·.isNone)

/-- The number of occupied places. -/
def occupied {α : Type} (places : List (Option α)) : Nat := (places.filter (·.isSome)).length

/-! ### Region lookup (R43, R44) -/

/-- The region covers a byte address: base to base + 2^n - 1 (R43). -/
def Region.covers (r : Region) (address : Nat) : Bool :=
  decide (r.base ≤ address) && decide (address < r.base + 2 ^ r.exponent)

/-- The attribute set of the last entry of the list that covers the address, else the given one (R44). -/
def lookupFrom : List (Option Region) → Attributes → Nat → Attributes
  | [], found, _ => found
  | none :: rest, found, address => lookupFrom rest found address
  | some r :: rest, found, address =>
    lookupFrom rest (if r.covers address then r.attributes else found) address

/-- The attributes of a host line: the highest-indexed valid entry that covers it, else the defaults (R44). -/
def Tables.attributesOfLine (t : Tables) (line : Nat) : Attributes :=
  lookupFrom t.regions t.defaults (line * 64)

/-- The attributes of a host frame (R44). -/
def Tables.attributesOfFrame (t : Tables) (frame : Nat) : Attributes :=
  lookupFrom t.regions t.defaults (frame * 4096)

/-! ### Remap Table (R50, R51) -/

/-- The entry of a host frame. -/
def Tables.entryOf (t : Tables) (frame : Nat) : Option RemapEntry := t.remap.find? (fun e => e.frame == frame)

/-- Whether an entry is MIGRATING. -/
def RemapState.isMigrating : RemapState → Bool
  | .migrating _ _ _ => true
  | .active _ => false

/-- The frame of the MIGRATING entry, if there is one. -/
def Tables.migratingFrame (t : Tables) : Option Nat :=
  (t.remap.find? (fun e => e.state.isMigrating)).map (·.frame)

/-- Remove the entry of a frame. -/
def Tables.removeEntry (t : Tables) (frame : Nat) : Tables :=
  { t with remap := t.remap.filter (fun e => !(e.frame == frame)) }

/-- Create the entry of a frame, or give it another state. -/
def Tables.putEntry (t : Tables) (frame : Nat) (st : RemapState) : Tables :=
  { t with remap := ⟨frame, st⟩ :: t.remap.filter (fun e => !(e.frame == frame)) }

/-- Put a spare into a state (R48). -/
def Tables.setSpare (t : Tables) (k : Nat) (st : SpareState) : Tables :=
  { t with spares := t.spares.set k st }

/-- The lowest-numbered FREE spare (R49). -/
def Tables.lowestFreeSpare (t : Tables) : Option Nat := t.spares.findIdx? (fun st => st == .free)

/-- The Retire Queue holds a request for the frame. -/
def Tables.queued (t : Tables) (frame : Nat) : Bool := t.retireQueue.any (fun r => r.frame == frame)

/-! ### Suspect Table (R89) -/

/-- The place of the frame's entry. -/
def Tables.suspectPlace (t : Tables) (frame : Nat) : Option Nat :=
  t.suspects.findIdx? (fun p => p.any (fun e => e.frame == frame))

/-- The frame's entry. -/
def Tables.suspectOf (t : Tables) (frame : Nat) : Option SuspectEntry :=
  (t.suspects.find? (fun p => p.any (fun e => e.frame == frame))).join

/-- Give the frame's entry, if there is one, a retire state (R69). -/
def Tables.setRetire (t : Tables) (frame : Nat) (st : RetireState) : Tables :=
  { t with suspects := t.suspects.map (Option.map fun e => if e.frame = frame then { e with retire := st } else e) }

/-- Remove the frame's entry, if there is one; the pointer stays (R94). -/
def Tables.removeSuspect (t : Tables) (frame : Nat) : Tables :=
  { t with suspects := t.suspects.map (fun p => if p.any (fun e => e.frame == frame) then none else p) }

/-- QUEUED or MIGRATING: the entry is pinned (R89). -/
def SuspectEntry.pinned (e : SuspectEntry) : Bool :=
  match e.retire with
  | .queued | .migrating => true
  | .none | .refused => false

/-! ### Completions (R141) -/

/-- A completion joins the tail of the backlog (R141). -/
def State.complete (s : State) (c : Completion) : State :=
  s.withAdmission { s.admission with backlog := s.admission.backlog ++ [c] }

/-- A completion with every count and the result word 0. -/
def Completion.plain (tag : Tag) (kind : BitVec 4) (status : Status) : Completion :=
  { tag, kind, status, linesDone := 0, corrected := 0, uncorrectable := 0, poisoned := 0, result := 0#28,
    accepted := true }

/-! ### Rings (R117 to R119) -/

/-- N, the number of records of a ring (R117). -/
def Ring.entries (r : Ring) : Nat := 2 ^ r.exponent

/-- (x - y) mod n, taken from 0 to n - 1 (00_scope.md, Conventions). -/
def ringDistance (n x y : Nat) : Nat := (x % n + n - y % n) % n

/-- A ring has room while (producer - head) mod N is less than N - 1 (R119). -/
def Ring.room (r : Ring) (producer head : Nat) : Bool :=
  decide (ringDistance r.entries producer head < r.entries - 1)

/-- The next index of a ring. -/
def Ring.next (r : Ring) (index : Nat) : Nat := (index + 1) % r.entries

end Sys2Proof.Machine
end

