-- ==== Sys2Proof/Machine/Operands.lean ====
section
/-!
DEFINITION. The records of spec 11 (anchor, command, completion, event), read from and written to the words of a line,
and what a Line Write carries. Every layout is that of 11.2 to 11.5; records are little-endian (11.1).
-/

namespace Sys2Proof.Machine

/-! ### What a Line Write carries (R10) -/

/-- One word of a Line Write: the lanes set, the new data, the poison marker (R10). -/
structure WordWrite where
  lanes : BitVec 8
  data : DataWord
  marker : Bool
deriving DecidableEq, Repr

/-- The words of a host write: mask bit 8w + b selects lane b of word w (R2), line byte k of the data stands in its bits
8k + 7 to 8k (log 24), every marker clear (R36). -/
def hostWordWrites (mask : BitVec 64) (data : BitVec 512) : List WordWrite :=
  (List.range 8).map fun w => ⟨mask.extractLsb' (8 * w) 8, data.extractLsb' (64 * w) 64, false⟩

/-- Whole words from word `first` on, and no lanes elsewhere (R10: the part's own writes set whole words). -/
def wholeWordWrites (first : Nat) (words : List DataWord) : List WordWrite :=
  (List.range 8).map fun w =>
    if first ≤ w ∧ w < first + words.length then ⟨0xFF#8, words.getD (w - first) 0#64, false⟩ else ⟨0#8, 0#64, false⟩

/-- FILL's line: the pattern in every word (R151). -/
def fillWordWrites (pattern : DataWord) : List WordWrite :=
  List.replicate 8 ⟨0xFF#8, pattern, false⟩

/-- COPY's destination line, word by word from the held line (R154). -/
def copyWordWrites (held : List (DecodeClass × DataWord)) : List WordWrite :=
  held.map fun
    | (.good, d) => ⟨0xFF#8, d, false⟩
    | (.corrected _, d) => ⟨0xFF#8, d, false⟩
    | (.uncorrectable, _) => ⟨0xFF#8, 0#64, true⟩
    | (.poisoned, _) => ⟨0xFF#8, 0#64, true⟩

/-! ### Fields of little-endian records (11.1) -/

/-- The bits lo+len-1..lo of word i of a record, as a number. -/
def recordField (words : List DataWord) (i lo len : Nat) : Nat :=
  ((words.getD i 0#64).extractLsb' lo len).toNat

/-- A number placed at bits lo+len-1..lo of a word. -/
def placeField (value lo len : Nat) : DataWord := BitVec.ofNat 64 ((value % 2 ^ len) <<< lo)

/-- A Bool as a one-bit number. -/
def oneBit (b : Bool) : Nat := if b then 1 else 0

/-- The attribute bits of 11.1. -/
def attributesOfBits (n : BitVec 4) : Attributes :=
  ⟨n.getLsbD 0, n.getLsbD 1, n.getLsbD 2, n.getLsbD 3⟩

/-! ### Codes (11.1, 11.3 to 11.5) -/

/-- The kind code of a command (11.3). -/
def Command.kindCode : Command → BitVec 4
  | .slot (.scrub _ _ _) => 1#4
  | .slot (.verify _ _) => 2#4
  | .slot (.fill _ _ _) => 3#4
  | .slot (.copy _ _ _) => 4#4
  | .retire _ => 5#4
  | .install _ _ => 6#4
  | .withdrawSpare _ => 7#4
  | .query _ => 8#4
  | .clearSuspect _ => 9#4
  | .setRegion _ _ _ _ _ => 10#4
  | .setPatrol _ _ _ => 11#4
  | .fence => 12#4
  | .abort _ => 13#4

/-- The status code of a completion (11.4). -/
def Status.code : Status → Nat
  | .success => 0
  | .dataErrors => 1
  | .lineProtected => 2
  | .badAddress => 3
  | .invalidCommand => 4
  | .invalidField => 5
  | .duplicateTag => 6
  | .aborted => 7
  | .notFound => 8
  | .noSpare => 9
  | .queueFull => 10
  | .conflict => 11

/-- The source code (11.1). -/
def Source.code : Source → Nat
  | .hostRead => 0
  | .hostWrite => 1
  | .fetch => 2
  | .scrub => 3
  | .verify => 4
  | .copy => 5
  | .patrol => 6
  | .migration => 7

/-- The event kind code (11.5). -/
def EventKind.code : EventKind → Nat
  | .corrected => 1
  | .uncorrectable => 2
  | .poisonRead => 3
  | .mergeFailed => 4
  | .writeRefused => 5
  | .retireStarted => 6
  | .retireDone => 7
  | .retireRefused => 8
  | .retireAborted => 9
  | .spareFailed => 10
  | .patrolPass => 11
  | .overflow => 12

/-- The retire state code of QUERY and CLEAR_SUSPECT (11.4). -/
def RetireState.code : RetireState → Nat
  | .none => 0
  | .queued => 1
  | .migrating => 2
  | .refused => 3

/-- The spare state code of WITHDRAW_SPARE (11.4). -/
def SpareState.code : SpareState → Nat
  | .free => 0
  | .assigned => 1
  | .target => 2
  | .failed => 3

/-! ### The anchor record (11.2) -/

/-- The fields of an anchor record (R178). -/
structure AnchorRecord where
  version : Nat
  reportCorrected : Bool
  threshold : Nat
  attributes : Attributes
  sq : Ring
  cq : Ring
  eq : Ring
deriving DecidableEq, Repr

/-- Read the anchor from the 8 delivered words (11.2, R178); reserved bits are not looked at. -/
def anchorOfWords (words : List DataWord) : AnchorRecord :=
  { version := recordField words 0 0 8
    reportCorrected := (words.getD 0 0#64).getLsbD 8
    threshold := recordField words 0 16 16
    attributes := attributesOfBits ((words.getD 0 0#64).extractLsb' 32 4)
    sq := ⟨recordField words 1 0 64, recordField words 4 0 8⟩
    cq := ⟨recordField words 2 0 64, recordField words 4 8 8⟩
    eq := ⟨recordField words 3 0 64, recordField words 4 16 8⟩ }

/-! ### The command record (11.3) -/

/-- A command record as read: its tag, its kind code, and the command unless the code names none (R179). -/
structure CommandRecord where
  tag : Tag
  kind : BitVec 4
  command : Option Command
deriving DecidableEq, Repr

/-- The command a kind code names, with the fields the kind uses taken at their full widths (11.3, R179). -/
def commandOfWords (words : List DataWord) : Option Command :=
  let flag0 := (words.getD 0 0#64).getLsbD 24
  let flag1 := (words.getD 0 0#64).getLsbD 25
  let first := recordField words 1 0 32
  let destination := recordField words 1 32 32
  let length := recordField words 2 0 32
  let frame := recordField words 2 32 32
  let spare := recordField words 3 0 16
  match recordField words 0 16 4 with
  | 1 => some (.slot (.scrub first length flag0))
  | 2 => some (.slot (.verify first length))
  | 3 => some (.slot (.fill first length (words.getD 6 0#64)))
  | 4 => some (.slot (.copy first destination length))
  | 5 => some (.retire frame)
  | 6 => some (.install frame spare)
  | 7 => some (.withdrawSpare spare)
  | 8 => some (.query frame)
  | 9 => some (.clearSuspect frame)
  | 10 => some (.setRegion (recordField words 3 48 8) flag0 (recordField words 5 0 64) (recordField words 3 56 8)
      (attributesOfBits ((words.getD 4 0#64).extractLsb' 0 4)))
  | 11 => some (.setPatrol flag0 ((words.getD 3 0#64).extractLsb' 32 16) flag1)
  | 12 => some .fence
  | 13 => some (.abort ((words.getD 3 0#64).extractLsb' 16 16))
  | _ => none

/-- Read a command record from the 8 delivered words (11.3). -/
def recordOfWords (words : List DataWord) : CommandRecord :=
  { tag := (words.getD 0 0#64).extractLsb' 0 16
    kind := (words.getD 0 0#64).extractLsb' 16 4
    command := commandOfWords words }

/-! ### The completion record (11.4) -/

/-- The two words of a completion record with the ring's lap bit (11.4, R180). -/
def Completion.words (c : Completion) (lap : Bool) : List DataWord :=
  [ placeField c.tag.toNat 0 16 ||| placeField c.corrected 16 16 ||| placeField c.uncorrectable 32 16
      ||| placeField c.poisoned 48 16,
    placeField c.linesDone 0 25 ||| placeField c.kind.toNat 25 4 ||| placeField (oneBit lap) 31 1
      ||| placeField c.result.toNat 32 28 ||| placeField c.status.code 60 4 ]

/-! ### The event record (11.5) -/

/-- The four words of an event record with the ring's lap bit (11.5, R181). -/
def EventRecord.words (e : EventRecord) (lap : Bool) : List DataWord :=
  [ placeField e.kind.code 0 4 ||| placeField e.source.code 4 3 ||| placeField (oneBit lap) 7 1
      ||| placeField (oneBit e.tag.isSome) 8 1 ||| placeField (oneBit e.spare.isSome) 9 1 ||| placeField (oneBit e.cause) 10 1
      ||| placeField ((e.firstLost.map (·.code)).getD 0) 12 4 ||| placeField ((e.tag.map (·.toNat)).getD 0) 16 16
      ||| placeField e.line 32 28,
    placeField e.word 0 3 ||| placeField e.bit 8 8 ||| placeField e.count 16 16 ||| placeField e.frame 32 22,
    placeField (e.spare.getD 0) 0 6,
    0#64 ]

/-! ### Result words (11.4) -/

/-- RETIRE's result word: spare index and poisoned lines (R88). -/
def retireResult (spare poisonedLines : Nat) : BitVec 28 :=
  BitVec.ofNat 28 (spare % 64 + (poisonedLines % 128) * 2 ^ 8)

/-- INSTALL's result word: spare and frame as given (R159). -/
def installResult (frame spare : Nat) : BitVec 28 :=
  BitVec.ofNat 28 (spare % 64 + (frame % 2 ^ 22) * 2 ^ 6)

/-- WITHDRAW_SPARE's result word: the spare and the state it had (R160). -/
def withdrawResult (spare : Nat) (st : SpareState) : BitVec 28 :=
  BitVec.ofNat 28 (spare % 64 + st.code * 2 ^ 8)

/-- CLEAR_SUSPECT's result word: the retire state (R162). -/
def clearResult (st : RetireState) : BitVec 28 := BitVec.ofNat 28 (st.code * 2 ^ 4)

/-- QUERY's result word (R60, R161). -/
def queryResult (entry : Option RemapEntry) (suspectPresent : Bool) (st : RetireState) : BitVec 28 :=
  let remap : Nat × Option Nat × Nat × Nat :=
    match entry with
    | none => (0, none, 0, 0)
    | some ⟨_, .active c⟩ => (1, some c, 0, 0)
    | some ⟨_, .migrating c t m⟩ => (2, c, t, m)
  BitVec.ofNat 28 (remap.1 + oneBit remap.2.1.isSome * 2 ^ 2 + oneBit suspectPresent * 2 ^ 3 + st.code * 2 ^ 4
    + (remap.2.1.getD 0 % 64) * 2 ^ 6 + (remap.2.2.1 % 64) * 2 ^ 12 + (remap.2.2.2 % 64) * 2 ^ 18)

/-- QUERY's poisoned-words field: the last word's line within the frame and its index (R180). -/
def queryLastWord (e : SuspectEntry) : Nat := e.lastLine % 64 + (e.lastWord % 8) * 2 ^ 6

end Sys2Proof.Machine
end

