-- ==== Sys2Proof/Machine/Flags.lean ====
section
/-!
DEFINITION. What the registers read (11.6, R39, R110, R174, R182), the ATTN level (R126), and the counts the spec
computes from other state: the live count and the tag set (R128).
-/

namespace Sys2Proof.Machine

/-- A number placed at bits lo+len-1..lo of a register. -/
def registerField (value lo len : Nat) : BitVec 32 := BitVec.ofNat 32 ((value % 2 ^ len) <<< lo)

/-- The engine state code of STAT (11.6). -/
def EngineState.code : EngineState → Nat
  | .off => 0
  | .starting => 1
  | .running => 2
  | .quiescing => 3
  | .quiesced => 4
  | .halted => 5

/-- The halt cause code of STAT (11.6). -/
def HaltCause.code : HaltCause → Nat
  | .none => 0
  | .commandUnreadable => 1
  | .badSqTail => 2
  | .badCqHead => 3
  | .badEqHead => 4

/-- The start error code of STAT (11.6). -/
def StartError.code : StartError → Nat
  | .none => 0
  | .anchorUnreadable => 1
  | .anchorVersion => 2
  | .ringSize => 3
  | .ringPlacement => 4
  | .threshold => 5

/-- Class A: UNCORRECTABLE, POISON_READ and MERGE_FAILED; CORRECTED is class B (R174). -/
def CaptureKind.isClassA : CaptureKind → Bool
  | .corrected _ => false
  | .uncorrectable | .poisonRead | .mergeFailed => true

/-- The kind code of FAULT_INFO (11.6). -/
def CaptureKind.code : CaptureKind → Nat
  | .corrected _ => 0
  | .uncorrectable => 1
  | .poisonRead => 2
  | .mergeFailed => 3

/-- The bit position FAULT_INFO shows: 0 but for CORRECTED (R174). -/
def CaptureKind.bitPosition : CaptureKind → Nat
  | .corrected b => b.val
  | .uncorrectable | .poisonRead | .mergeFailed => 0

/-- What CTRL reads: the enables as last applied, the action bits 0 (R109). -/
def State.ctrlValue (s : State) : BitVec 32 :=
  registerField (oneBit s.engine.enables.comp) 8 1 ||| registerField (oneBit s.engine.enables.event) 9 1
    ||| registerField (oneBit s.engine.enables.halt) 10 1

/-- What STAT reads (R110, 11.6). -/
def State.statValue (s : State) : BitVec 32 :=
  registerField s.engine.state.code 0 3 ||| registerField s.engine.haltCause.code 4 3
    ||| registerField s.engine.startError.code 8 3 ||| registerField (oneBit s.tables.migration.isSome) 16 1
    ||| registerField (oneBit s.port.buffer.isEmpty) 17 1 ||| registerField (oneBit (!s.admission.backlog.isEmpty)) 18 1
    ||| registerField (oneBit s.news.overflow.isSome) 19 1

/-- What FAULT_ADDR reads (R174). -/
def State.faultAddrValue (s : State) : BitVec 32 :=
  match s.news.capture with
  | none => 0#32
  | some c => registerField c.line 0 28

/-- What FAULT_INFO reads (R174). -/
def State.faultInfoValue (s : State) : BitVec 32 :=
  match s.news.capture with
  | none => 0#32
  | some c =>
    registerField 1 0 1 ||| registerField (oneBit c.kind.isClassA) 1 1 ||| registerField c.kind.code 2 2
      ||| registerField c.source.code 4 3 ||| registerField c.word 8 3 ||| registerField c.kind.bitPosition 16 7
      ||| registerField (oneBit c.more) 30 1

/-- A register read: the value as it stands, 0 at an offset that names no register; it changes nothing (R39, R182). -/
def State.readRegister (s : State) (offset : Nat) : BitVec 32 :=
  if offset = 0x00 then s.ctrlValue
  else if offset = 0x04 then s.statValue
  else if offset = 0x08 then s.engine.anchor.setWidth 32
  else if offset = 0x0C then s.engine.sqTail.setWidth 32
  else if offset = 0x10 then s.engine.cqHead.setWidth 32
  else if offset = 0x14 then s.engine.eqHead.setWidth 32
  else if offset = 0x18 then s.faultAddrValue
  else if offset = 0x1C then s.faultInfoValue
  else 0#32

/-- The level of ATTN: any of the three conditions of R126. -/
def State.attnLevel (s : State) : Bool :=
  (match s.engine.rings with
    | none => false
    | some r =>
      (s.engine.enables.comp && !(r.cqProducer == s.engine.cqHead.toNat))
        || (s.engine.enables.event && !(r.eqProducer == s.engine.eqHead.toNat)))
    || (s.engine.enables.halt && s.engine.state == .halted)

/-- The tag an origin carries. -/
def Origin.tags : Origin → List Tag
  | .auto => []
  | .command tag => [tag]

/-- The tags of the accepted live commands that a slot holds: its own and that of a held ABORT (R128, R133). -/
def Slot.tags (sl : Slot) : List Tag := sl.tag :: sl.abortedBy.toList

/-- The tags held by the Retire Queue and the Migration Unit (R128). -/
def Tables.retireTags (t : Tables) : List Tag :=
  t.retireQueue.flatMap (·.origin.tags) ++ (t.migration.toList).flatMap (·.origin.tags)

/-- The tag set: the tags of the accepted live commands (R128). -/
def State.tagSet (s : State) : List Tag :=
  s.admission.pendingList.map (·.tag) ++ (s.admission.slots.flatMap (·.toList)).flatMap (·.tags)
    ++ s.tables.retireTags ++ (s.admission.backlog.filter (·.accepted)).map (·.tag)

/-- The live count: the places where R128 says a live command stands. -/
def State.liveCount (s : State) : Nat :=
  s.admission.pendingList.length + ((s.admission.slots.flatMap (·.toList)).flatMap (·.tags)).length
    + s.tables.retireTags.length + s.admission.backlog.length

/-- A fetch tenure is in progress whose record will be judged (R129). -/
def State.fetchInTenure (s : State) : Bool :=
  s.arbiter.tenure.any (fun t => t.work == .fetch && !t.discarded)

end Sys2Proof.Machine
end

