-- ==== Sys2Proof/Machine/Tenures.lean ====
section
/-!
DEFINITION. Decoding (R6), what each tenure kind does to the words of its line or lines (R8 to R16), and the routing of
host lines to physical lines (R52 to R55). Each tenure kind is computed from the memory as it stands at the one point
where the tenure acts, as the words it stores and the reports it hands back.
-/

namespace Sys2Proof.Machine

/-! ### Decoding -/

/-- Decode one stored word: its class and the data delivered (R6). -/
def decodeWord : StoredWord → DecodeClass × DataWord
  | .clean d => (.good, d)
  | .single d b => (.corrected b, d)
  | .multi d => (.uncorrectable, d)
  | .poison => (.poisoned, 0#64)

/-- A CORRECTED or UNCORRECTABLE decode is a detection (R6). -/
def DecodeClass.isDetection : DecodeClass → Bool
  | .corrected _ | .uncorrectable => true
  | .good | .poisoned => false

/-- An UNCORRECTABLE or POISONED decode: the word is damaged beyond correction or already lost. -/
def DecodeClass.isLost : DecodeClass → Bool
  | .uncorrectable | .poisoned => true
  | .good | .corrected _ => false

/-- What a disturbance makes of a word; a change R5 does not list leaves the word as it was. -/
def disturbWord : StoredWord → Disturbance → StoredWord
  | .clean d, .toSingle b => .single d b
  | .clean _, .toMulti bits => .multi bits
  | .single d b, .toSingle _ => .single d b
  | .single _ _, .toMulti bits => .multi bits
  | .multi d, .toSingle _ => .multi d
  | .multi _, .toMulti bits => .multi bits
  | .poison, _ => .poison

/-! ### The effect of a tenure on memory -/

/-- What a tenure does at its point of action: the words it stores and its word reports (R7, R8). -/
structure TenureEffect where
  writes : List (Nat × StoredWord)
  reports : List WordReport
deriving DecidableEq, Repr

/-- A Line Read of the masked words of a physical line: it decodes and writes nothing (R9). Bit w of the mask selects word w:
DESIGN CHOICE, the spec says only that the mask has one bit for each word (log 23). -/
def lineReadEffect (m : Memory) (line : Nat) (mask : BitVec 8) : TenureEffect :=
  { writes := []
    reports := ((List.range 8).filter fun w => mask.getLsbD w).map fun w =>
      ⟨w, some (decodeWord (m.read (wordKey line w))), .unchanged⟩ }

/-- The 64-bit mask of the bits of the set lanes (R2). -/
def laneMask (lanes : BitVec 8) : DataWord :=
  (List.range 8).foldl (fun acc b => if lanes.getLsbD b then acc ||| (0xFF#64 <<< (8 * b)) else acc) 0#64

/-- Each set lane takes the new byte, each clear lane the old one (R11). -/
def mergeBytes (lanes : BitVec 8) (new old : DataWord) : DataWord :=
  (new &&& laneMask lanes) ||| (old &&& ~~~ laneMask lanes)

/-- What a Line Write makes of one word: the word stored, the decode it made, the written outcome (R10 to R12);
`none` where no lane is set. -/
def settleWord (old : StoredWord) (w : WordWrite) :
    Option (StoredWord × Option (DecodeClass × DataWord) × Written) :=
  if w.lanes = 0#8 then none
  else if w.lanes = 0xFF#8 then
    if w.marker then some (.poison, none, .poison) else some (.clean w.data, none, .clean)
  else
    match decodeWord old with
    | (.good, d) => some (.clean (mergeBytes w.lanes w.data d), some (.good, d), .clean)
    | (.corrected b, d) => some (.clean (mergeBytes w.lanes w.data d), some (.corrected b, d), .clean)
    | (.uncorrectable, d) => some (.poison, some (.uncorrectable, d), .poison)
    | (.poisoned, d) => some (.poison, some (.poisoned, d), .poison)

/-- The words of a line a Line Write settles, with their indices; the source line alone is decoded (R13). -/
def settledWords (m : Memory) (source : Nat) (ws : List WordWrite) :
    List (Nat × StoredWord × Option (DecodeClass × DataWord) × Written) :=
  ws.zipIdx.filterMap fun (w, i) => (settleWord (m.read (wordKey source i)) w).map fun r => (i, r)

/-- A Line Write: the same result in the source line and, where routing gives one, in the target line (R10, R13, R54). -/
def lineWriteEffect (m : Memory) (source : Nat) (target : Option Nat) (ws : List WordWrite) : TenureEffect :=
  let settled := settledWords m source ws
  { writes := settled.flatMap fun (i, v, _, _) =>
      (wordKey source i, v) :: (target.toList.map fun t => (wordKey t i, v))
    reports := settled.map fun (i, _, d, o) => ⟨i, d, o⟩ }

/-- What a Repair Read makes of one word (R14). -/
def repairWord (poisonUncorrectable : Bool) : StoredWord → StoredWord × Written
  | .clean d => (.clean d, .unchanged)
  | .single d _ => (.clean d, .clean)
  | .multi d => if poisonUncorrectable then (.poison, .poison) else (.multi d, .unchanged)
  | .poison => (.poison, .unchanged)

/-- A Repair Read of a physical line (R14): it stores the words whose outcome is not UNCHANGED. -/
def repairReadEffect (m : Memory) (line : Nat) (poisonUncorrectable : Bool) : TenureEffect :=
  { writes := ((List.range 8).filter fun w =>
        (repairWord poisonUncorrectable (m.read (wordKey line w))).2 != .unchanged).map fun w =>
      (wordKey line w, (repairWord poisonUncorrectable (m.read (wordKey line w))).1)
    reports := (List.range 8).map fun w =>
      ⟨w, some (decodeWord (m.read (wordKey line w))), (repairWord poisonUncorrectable (m.read (wordKey line w))).2⟩ }

/-- What a Copy Step writes into the target for one source word (R15). -/
def copiedWord : StoredWord → StoredWord × Written
  | .clean d => (.clean d, .clean)
  | .single d _ => (.clean d, .clean)
  | .multi _ => (.poison, .poison)
  | .poison => (.poison, .poison)

/-- A Copy Step from a source line to a target line (R15). -/
def copyStepEffect (m : Memory) (source target : Nat) : TenureEffect :=
  { writes := (List.range 8).map fun w => (wordKey target w, (copiedWord (m.read (wordKey source w))).1)
    reports := (List.range 8).map fun w =>
      ⟨w, some (decodeWord (m.read (wordKey source w))), (copiedWord (m.read (wordKey source w))).2⟩ }

/-! ### Routing (R52) -/

/-- The backing frames of a host frame: the source, and for a MIGRATING entry the target and the cursor (R52). -/
structure Backing where
  source : Nat
  target : Option Nat
  cursor : Nat
deriving DecidableEq, Repr

/-- The physical frame of spare k (R1, R48). -/
def State.spareFrame (s : State) (k : Nat) : Nat := s.straps.hostFrames + k

/-- The backing of a host frame by the Remap Table as it stands (R52). -/
def State.backing (s : State) (frame : Nat) : Backing :=
  match s.tables.entryOf frame with
  | none => ⟨frame, none, 0⟩
  | some ⟨_, .active c⟩ => ⟨s.spareFrame c, none, 0⟩
  | some ⟨_, .migrating (some c) t m⟩ => ⟨s.spareFrame c, some (s.spareFrame t), m⟩
  | some ⟨_, .migrating none t m⟩ => ⟨frame, some (s.spareFrame t), m⟩

/-- The physical line every decode of a host line reaches: the source line (R53, R54). -/
def State.sourceLine (s : State) (line : Nat) : Nat :=
  (s.backing (line / 64)).source * 64 + line % 64

/-- The target line of a migrating frame (R52). -/
def State.targetLine (s : State) (line : Nat) : Option Nat :=
  (s.backing (line / 64)).target.map fun t => t * 64 + line % 64

/-- The second line a Line Write reaches: the target line, below the cursor only (R54). -/
def State.dualLine (s : State) (line : Nat) : Option Nat :=
  if line % 64 < (s.backing (line / 64)).cursor then s.targetLine line else none

/-! ### Tenures routed and acting -/

/-- A Line Read of a host line (R53). -/
def State.readEffect (s : State) (line : Nat) (mask : BitVec 8) : TenureEffect :=
  lineReadEffect s.memory (s.sourceLine line) mask

/-- A Repair Read of a host line: the source alone (R53). -/
def State.repairEffect (s : State) (line : Nat) (poisonUncorrectable : Bool) : TenureEffect :=
  repairReadEffect s.memory (s.sourceLine line) poisonUncorrectable

/-- A Line Write of a host line (R54). -/
def State.writeEffect (s : State) (line : Nat) (ws : List WordWrite) : TenureEffect :=
  lineWriteEffect s.memory (s.sourceLine line) (s.dualLine line) ws

/-- A Copy Step of a host line (R55). It is granted only while the frame is MIGRATING; without a target it would
store nothing. -/
def State.copyEffect (s : State) (line : Nat) : TenureEffect :=
  match s.targetLine line with
  | some t => copyStepEffect s.memory (s.sourceLine line) t
  | none => lineReadEffect s.memory (s.sourceLine line) 0xFF#8

/-- A tenure begins and acts: memory takes its writes, the channel is busy with it and holds its reports (R17). -/
def State.beginTenure (s : State) (work : Work) (line : Nat) (e : TenureEffect) : State :=
  (s.withMemory (s.memory.writeAll e.writes)).withArbiter
    { s.arbiter with tenure := some ⟨work, line, e.reports, false⟩ }

/-- A tenure ends: the channel is free (R17). -/
def State.freeChannel (s : State) : State := s.withArbiter { s.arbiter with tenure := none }

/-- The reports of the tenure in progress will be discarded at its end (R18), where `f` says it is one of them. -/
def State.discardTenure (s : State) (f : Work → Bool) : State :=
  s.withArbiter { s.arbiter with tenure := s.arbiter.tenure.map fun t => if f t.work then { t with discarded := true } else t }

/-- The data delivered by the reports of a read (R32). -/
def deliveredWords (reports : List WordReport) : List (Nat × DataWord) :=
  reports.filterMap fun r => r.decoded.map fun d => (r.index, d.2)

/-- Whether any decoded word is UNCORRECTABLE or POISONED (R32, R112, R130). -/
def anyLost (reports : List WordReport) : Bool :=
  reports.any fun r => r.decoded.any fun d => d.1.isLost

end Sys2Proof.Machine
end

