-- ==== Sys2Proof/Machine/Accounting.lean ====
section
/-!
DEFINITION. What follows from a detection or a retirement: events offered and recorded (R167 to R171), Fault Capture
(R174, R175), the Suspect Table with its automatic offers (R90 to R97), the Retire Queue and the start of migrations
(R66 to R74).
-/

namespace Sys2Proof.Machine

/-! ### Events (R168 to R170) -/

/-- Count an event into the overflow summary (R170). -/
def News.countLost (n : News) (e : EventRecord) : News :=
  { n with overflow := some (match n.overflow with
      | none => ⟨1, e.kind, e.source⟩
      | some o => { o with count := min 65535 (o.count + 1) }) }

/-- Record an offer that the filter has not dropped, by the engine state and the list (R169). -/
def News.record (n : News) (st : EngineState) (e : EventRecord) : News :=
  match st with
  | .off | .starting => n
  | .halted => n.countLost e
  | .running | .quiescing | .quiesced =>
    if n.events.length < 8 ∧ n.overflow = none then { n with events := n.events ++ [e] } else n.countLost e

/-- Offer an event: a CORRECTED event is dropped while report-corrected is off (R168), any other is recorded, counted
or leaves no trace (R169). -/
def State.offer (s : State) (e : EventRecord) : State :=
  if e.kind = .corrected ∧ s.engine.reportCorrected = false then s
  else s.withNews (s.news.record s.engine.state e)

/-! ### Fault Capture (R175) -/

/-- What Fault Capture holds after an error is presented (R175). -/
def captureNext (held : Option Capture) (c : Capture) : Capture :=
  match held with
  | none => { c with more := false }
  | some h => if c.kind.isClassA && !h.kind.isClassA then { c with more := true } else { h with more := true }

/-- Present an error to Fault Capture (R174, R175). -/
def State.present (s : State) (kind : CaptureKind) (source : Source) (line word : Nat) : State :=
  s.withNews { s.news with capture := some (captureNext s.news.capture ⟨kind, source, line, word, false⟩) }

/-! ### Migration start (R72 to R74) -/

/-- The tag an event carries: that of a command origin (R167). -/
def Origin.tag? : Origin → Option Tag
  | .auto => none
  | .command tag => some tag

/-- A retirement event (R167): its cause bit is shown for an AUTO origin only, by the caller. -/
def retireEvent (kind : EventKind) (origin : Origin) (frame : Nat) (spare : Option Nat) (cause : Bool) (count : Nat) :
    EventRecord :=
  { kind, source := .migration, tag := origin.tag?, frame, spare, cause, count }

/-- The cause bit of RETIRE_STARTED and RETIRE_DONE: 1 for UNCORRECTABLE, for an AUTO origin (11.5). -/
def causeBit (origin : Origin) (cause : Cause) : Bool := origin == .auto && cause == .uncorrectable

/-- If the origin is a command, its completion joins the backlog (R73, R79, R88). -/
def State.completeOrigin (s : State) (origin : Origin) (status : Status) (linesDone corrected uncorrectable poisoned : Nat)
    (result : BitVec 28) : State :=
  match origin with
  | .auto => s
  | .command tag =>
    s.complete { tag, kind := 5#4, status, linesDone, corrected, uncorrectable, poisoned, result, accepted := true }

/-- Migration start refuses a request: no spare is FREE (R73, in its order). -/
def State.refuseStart (s : State) (r : RetireRequest) : State :=
  let s := s.offer (retireEvent .retireRefused r.origin r.frame none false 0)
  let s := s.completeOrigin r.origin .noSpare 0 0 0 0 0#28
  s.withTables (s.tables.setRetire r.frame .refused)

/-- The current spare of the frame's ACTIVE entry, which a re-retire keeps (R74 step 2). -/
def Tables.currentSpare (t : Tables) (frame : Nat) : Option Nat :=
  match t.entryOf frame with
  | some ⟨_, .active c⟩ => some c
  | some ⟨_, .migrating c _ _⟩ => c
  | none => none

/-- Migration start with the FREE spare t (R74, steps 1 to 6; the Copy Step request is the step WAITING, log 8). -/
def State.beginMigration (s : State) (r : RetireRequest) (t : Nat) : State :=
  let old := s.tables.currentSpare r.frame
  let tables := (s.tables.setSpare t .target).putEntry r.frame (.migrating old t 0)
  let s := s.withTables { tables with
    migration := some ⟨r.frame, r.origin, r.cause, t, old, 0, 0, 0, 0, .waiting⟩ }
  let s := s.offer (retireEvent .retireStarted r.origin r.frame (some t) (causeBit r.origin r.cause) 0)
  s.withTables (s.tables.setRetire r.frame .migrating)

/-- Migrations start while the unit is IDLE, the queue is not empty and the engine is neither OFF nor STARTING (R72);
a start that finds no spare refuses its request and the next head follows (R73). -/
def startFrom : List RetireRequest → State → State
  | [], s => s
  | r :: rest, s =>
    if s.tables.migration.isNone ∧ s.engine.state.retires then
      let s := s.withTables { s.tables with retireQueue := rest }
      match s.tables.lowestFreeSpare with
      | none => startFrom rest (s.refuseStart r)
      | some t => s.beginMigration r t
    else s

/-- Start what can start (R72). -/
def State.startMigrations (s : State) : State := startFrom s.tables.retireQueue s

/-! ### The Retire Queue's offers (R67, R68) -/

/-- A request joins the tail, its frame's entry becomes QUEUED, and the migration starts if the unit is IDLE (R69, R72). -/
def State.joinQueue (s : State) (r : RetireRequest) : State :=
  let tables := { s.tables with retireQueue := s.tables.retireQueue ++ [r] }
  (s.withTables (tables.setRetire r.frame .queued)).startMigrations

/-- The frame is migrating or queued already (R67, R68: the first case). -/
def Tables.retiring (t : Tables) (frame : Nat) : Bool :=
  t.migratingFrame == some frame || t.queued frame

/-- An automatic offer (R68). -/
def State.offerAuto (s : State) (frame : Nat) (cause : Cause) : State :=
  if s.tables.retiring frame then s
  else if 8 ≤ s.tables.retireQueue.length then s.offer (retireEvent .retireRefused .auto frame none true 0)
  else s.joinQueue ⟨frame, .auto, cause⟩

/-! ### The Suspect Table (R90 to R95) -/

/-- Advance the eviction pointer (R91, R92). -/
def nextPlace (p : Nat) : Nat := (p + 1) % 32

/-- The place the next eviction chooses, looking at no more than n pinned places (R93). -/
def evictionPlace (places : List (Option SuspectEntry)) : Nat → Nat → Nat
  | 0, p => p
  | n + 1, p => if (placeAt places p).any (·.pinned) then evictionPlace places n (nextPlace p) else p

/-- The entry after one more detection (R91). -/
def SuspectEntry.update (e : SuspectEntry) (line word : Nat) (uncorrectable : Bool) : SuspectEntry :=
  { e with
    corrected := if uncorrectable then e.corrected else min 255 (e.corrected + 1)
    uncorrectable := if uncorrectable then min 255 (e.uncorrectable + 1) else e.uncorrectable
    lastLine := line
    lastWord := word }

/-- The retire state of a new entry (R92). -/
def Tables.freshRetire (t : Tables) (frame : Nat) : RetireState :=
  if t.migratingFrame = some frame then .migrating else if t.queued frame then .queued else .none

/-- A new entry (R92). -/
def Tables.freshEntry (t : Tables) (line word : Nat) (uncorrectable : Bool) : SuspectEntry :=
  { frame := line / 64, corrected := if uncorrectable then 0 else 1, uncorrectable := if uncorrectable then 1 else 0,
    lastLine := line, lastWord := word, retire := t.freshRetire (line / 64) }

/-- The place a new entry takes, and where the eviction pointer stands for it: the lowest free place, or the place
eviction finds (R92, R93). -/
def Tables.allocation (t : Tables) : Nat × Nat :=
  match firstFree t.suspects with
  | some i => (i, t.evictionPointer)
  | none =>
    let p := evictionPlace t.suspects 32 t.evictionPointer
    (p, p)

/-- Enter one detection into the table: update in place (R91), or allocate (R92). -/
def Tables.enter (t : Tables) (line word : Nat) (uncorrectable : Bool) : Tables :=
  match t.suspectPlace (line / 64) with
  | some i =>
    { t with
      suspects := t.suspects.modify i (Option.map fun e => e.update line word uncorrectable)
      evictionPointer := if t.evictionPointer = i then nextPlace t.evictionPointer else t.evictionPointer }
  | none =>
    { t with
      suspects := t.suspects.set t.allocation.1 (some (t.freshEntry line word uncorrectable))
      evictionPointer := nextPlace t.allocation.2 }

/-- After an update: the four conditions of R95, and the offer. -/
def State.considerOffer (s : State) (frame : Nat) : State :=
  match s.tables.suspectOf frame with
  | none => s
  | some e =>
    if s.engine.state.retires ∧ (s.tables.attributesOfFrame frame).autoRetire ∧ e.retire = .none
        ∧ (s.engine.threshold ≤ e.corrected ∨ 1 ≤ e.uncorrectable) then
      s.offerAuto frame (if 1 ≤ e.uncorrectable then .uncorrectable else .threshold)
    else s

/-- A detection is entered under the host frame of the line, and an offer is considered (R90 to R95). -/
def State.enterDetection (s : State) (line word : Nat) (uncorrectable : Bool) : State :=
  (s.withTables (s.tables.enter line word uncorrectable)).considerOffer (line / 64)

/-- The counts halved; an unpinned entry whose counts are both 0 is removed (R97). -/
def SuspectEntry.decayed (e : SuspectEntry) : Option SuspectEntry :=
  let d := { e with corrected := e.corrected / 2, uncorrectable := e.uncorrectable / 2 }
  if d.corrected = 0 ∧ d.uncorrectable = 0 ∧ d.pinned = false then none else some d

/-- Decay of the whole table (R97). -/
def Tables.decay (t : Tables) : Tables :=
  { t with suspects := t.suspects.map (fun p => p.bind SuspectEntry.decayed) }

/-! ### Handing on the word reports of a tenure -/

/-- The detection events of one word (R167). -/
def detectionEvent (kind : EventKind) (source : Source) (tag : Option Tag) (line word bitPosition : Nat) : EventRecord :=
  { kind, source, tag, line, word, bit := bitPosition }

/-- A CORRECTED word: event, class B capture, corrected count (R33, R90). -/
def State.handCorrected (s : State) (source : Source) (tag : Option Tag) (line word : Nat) (b : BitPos) : State :=
  ((s.offer (detectionEvent .corrected source tag line word b.val)).present (.corrected b) source line word).enterDetection
    line word false

/-- An UNCORRECTABLE word: event, class A capture, uncorrectable count (R33, R90). -/
def State.handUncorrectable (s : State) (source : Source) (tag : Option Tag) (line word : Nat) : State :=
  ((s.offer (detectionEvent .uncorrectable source tag line word 0)).present .uncorrectable source line word).enterDetection
    line word true

/-- One word of a decoding tenure whose POISONED words are not reported (R103, R112, R130, R146). -/
def State.handWord (source : Source) (tag : Option Tag) (line : Nat) (s : State) (r : WordReport) : State :=
  match r.decoded with
  | some (.corrected b, _) => s.handCorrected source tag line r.index b
  | some (.uncorrectable, _) => s.handUncorrectable source tag line r.index
  | some (.good, _) | some (.poisoned, _) | none => s

/-- Hand on the reports of a tenure, word by word in word-index order (R90). -/
def State.handWords (s : State) (source : Source) (tag : Option Tag) (line : Nat) (reports : List WordReport) : State :=
  reports.foldl (State.handWord source tag line) s

/-- One word of a host read: as any other, and a POISONED word is captured and reported as POISON_READ (R33). -/
def State.handReadWord (line : Nat) (s : State) (r : WordReport) : State :=
  match r.decoded with
  | some (.poisoned, _) =>
    (s.offer (detectionEvent .poisonRead .hostRead none line r.index 0)).present .poisonRead .hostRead line r.index
  | some (.good, _) | some (.corrected _, _) | some (.uncorrectable, _) | none =>
    State.handWord .hostRead none line s r

/-- One word of a drain: corrected merges and merge failures (R37, R173). -/
def State.handDrainWord (line : Nat) (s : State) (r : WordReport) : State :=
  match r.decoded with
  | some (.corrected b, _) => s.handCorrected .hostWrite none line r.index b
  | some (.uncorrectable, _) =>
    ((s.offer (detectionEvent .mergeFailed .hostWrite none line r.index 0)).present .mergeFailed .hostWrite line
      r.index).enterDetection line r.index true
  | some (.poisoned, _) =>
    (s.offer (detectionEvent .mergeFailed .hostWrite none line r.index 0)).present .mergeFailed .hostWrite line r.index
  | some (.good, _) | none => s

/-- One word of a Copy Step: event and capture, and nothing for the Suspect Table (R77). -/
def State.handCopyWord (tag : Option Tag) (line : Nat) (s : State) (r : WordReport) : State :=
  match r.decoded with
  | some (.corrected b, _) =>
    (s.offer (detectionEvent .corrected .migration tag line r.index b.val)).present (.corrected b) .migration line r.index
  | some (.uncorrectable, _) =>
    (s.offer (detectionEvent .uncorrectable .migration tag line r.index 0)).present .uncorrectable .migration line r.index
  | some (.good, _) | some (.poisoned, _) | none => s

end Sys2Proof.Machine
end

