-- ==== Sys2Proof/Machine/Migration.lean ====
section
/-!
DEFINITION. The Migration Unit at work: the end of a Copy Step (R76, R77), cut-over (R78, R79), and the reverting of a
migration by ABORT or by engine reset (R82 to R84).
-/

namespace Sys2Proof.Machine

/-- The number of reports for which `f` holds. -/
def countReports (f : WordReport → Bool) (reports : List WordReport) : Nat := (reports.filter f).length

/-- A CORRECTED report. -/
def WordReport.isCorrected (r : WordReport) : Bool :=
  match r.decoded with
  | some (.corrected _, _) => true
  | _ => false

/-- An UNCORRECTABLE report. -/
def WordReport.isUncorrectable (r : WordReport) : Bool :=
  match r.decoded with
  | some (.uncorrectable, _) => true
  | _ => false

/-- A POISONED report. -/
def WordReport.isPoisoned (r : WordReport) : Bool :=
  match r.decoded with
  | some (.poisoned, _) => true
  | _ => false

/-- The migration record after a Copy Step's reports (R76). -/
def MigrationRecord.count (m : MigrationRecord) (reports : List WordReport) : MigrationRecord :=
  { m with
    corrected := m.corrected + countReports (·.isCorrected) reports
    uncorrectable := m.uncorrectable + countReports (·.isUncorrectable) reports
    poisonedWords := m.poisonedWords + countReports (·.written == .poison) reports
    poisonedLines := m.poisonedLines + (if reports.any (·.written == .poison) then 1 else 0) }

/-- The old spare of a re-retire becomes FAILED at cut-over (R78). -/
def Tables.failOld (t : Tables) (old : Option Nat) : Tables :=
  match old with
  | none => t
  | some c => t.setSpare c .failed

/-- Remap Table and Spare Pool at cut-over (R78). -/
def Tables.cutOver (t : Tables) (m : MigrationRecord) : Tables :=
  ((t.putEntry m.frame (.active m.target)).setSpare m.target .assigned).failOld m.old

/-- In a re-retire, SPARE_FAILED is offered (R79 step 1). -/
def State.offerSpareFailed (s : State) (m : MigrationRecord) : State :=
  match m.old with
  | none => s
  | some c => s.offer (retireEvent .spareFailed m.origin m.frame (some c) false 0)

/-- The status of a RETIRE that cut over (R79 step 4). -/
def MigrationRecord.doneStatus (m : MigrationRecord) : Status :=
  if m.poisonedLines = 0 then .success else .dataErrors

/-- Cut-over of the migration whose record is m (R78, then R79 steps 1 to 6). -/
def State.cutOver (s : State) (m : MigrationRecord) : State :=
  let s := s.withTables (s.tables.cutOver m)
  let s := s.offerSpareFailed m
  let s := s.withTables (s.tables.removeSuspect m.frame)
  let s := s.offer (retireEvent .retireDone m.origin m.frame (some m.target) (causeBit m.origin m.cause) m.poisonedLines)
  let s := s.completeOrigin m.origin m.doneStatus 64 m.corrected m.uncorrectable m.poisonedWords
    (retireResult m.target m.poisonedLines)
  let s := s.withTables { s.tables with migration := none }
  s.startMigrations

/-- The cursor of the frame's MIGRATING entry (R50). -/
def Tables.cursorOf (t : Tables) (frame : Nat) : Nat :=
  match t.entryOf frame with
  | some ⟨_, .migrating _ _ m⟩ => m
  | _ => 0

/-- The cursor advances by 1 and the next Copy Step is requested (R75, R76). -/
def State.advanceCursor (s : State) (m : MigrationRecord) : State :=
  s.withTables { s.tables.putEntry m.frame (.migrating m.old m.target (s.tables.cursorOf m.frame + 1)) with
    migration := some { m with step := .waiting } }

/-- A Copy Step of the migration m ends with these reports (R76): counts, detections (R77), then the cursor or the
cut-over. -/
def State.endCopyStep (s : State) (m : MigrationRecord) (line : Nat) (reports : List WordReport) : State :=
  let m := m.count reports
  let s := s.withTables { s.tables with migration := some m }
  let s := reports.foldl (State.handCopyWord m.origin.tag? line) s
  if s.tables.cursorOf m.frame < 63 then s.advanceCursor m else s.cutOver m

/-- Remap Table, Spare Pool and Migration Unit after a migration is reverted (R63, R83, R84). -/
def Tables.revert (t : Tables) (m : MigrationRecord) : Tables :=
  let t := t.setSpare m.target .free
  let t := match m.old with
    | none => t.removeEntry m.frame
    | some c => t.putEntry m.frame (.active c)
  { t with migration := none }

/-- ABORT of the migrating RETIRE (R83, in its order; the start that follows is the caller's, after the ABORT's own
completion). -/
def State.abortMigration (s : State) (m : MigrationRecord) : State :=
  let cursor := s.tables.cursorOf m.frame
  let s := s.withTables (s.tables.revert m)
  let s := s.discardTenure (· == .copyStep)
  let s := s.offer (retireEvent .retireAborted m.origin m.frame (some m.target) false 0)
  let s := s.completeOrigin m.origin .aborted cursor m.corrected m.uncorrectable m.poisonedWords
    (retireResult m.target m.poisonedLines)
  s.withTables (s.tables.setRetire m.frame .none)

/-- ABORT of a queued RETIRE (R82, in its order). -/
def State.abortQueued (s : State) (r : RetireRequest) : State :=
  let s := s.withTables { s.tables with retireQueue := s.tables.retireQueue.filter fun q => !(q.frame == r.frame) }
  let s := s.offer (retireEvent .retireAborted r.origin r.frame none false 0)
  let s := s.completeOrigin r.origin .aborted 0 0 0 0 0#28
  s.withTables (s.tables.setRetire r.frame .none)

/-- QUEUED and MIGRATING return to NONE at an engine reset (R99). -/
def SuspectEntry.unpin (e : SuspectEntry) : SuspectEntry := if e.pinned then { e with retire := .none } else e

/-- The tables after an engine reset (R47, R63, R84, R99): the queue emptied, a migration reverted, the defaults clear. -/
def Tables.engineReset (t : Tables) : Tables :=
  let t := match t.migration with
    | none => t
    | some m => t.revert m
  { t with retireQueue := [], defaults := .clear, suspects := t.suspects.map (Option.map SuspectEntry.unpin) }

end Sys2Proof.Machine
end

