-- ==== Sys2Proof/Machine/Admission.lean ====
section
/-!
DEFINITION. Command admission: the judgement of a record (R131), the pending list and issue (R134 to R137), the slots
(R138 to R140, R146, R147), ABORT (R132, R133), and what the at-issue commands do (spec 09).
-/

namespace Sys2Proof.Machine

/-! ### The judgements of a record (R131, R179) -/

/-- A length of 1..16,777,216 lines (R131). -/
def lengthOk (length : Nat) : Bool := decide (1 ≤ length) && decide (length ≤ 16777216)

/-- Two ranges of host lines, each a first line and a length, share a line. -/
def rangesMeet (a b : Nat × Nat) : Bool := decide (a.1 < b.1 + b.2) && decide (b.1 < a.1 + a.2) && decide (0 < a.2) && decide (0 < b.2)

/-- Check 2: every field lies in its range and the fields are consistent (R131, R179). `spares` is S. -/
def Command.fieldsOk (spares : Nat) : Command → Bool
  | .slot (.scrub _ length _) => lengthOk length
  | .slot (.verify _ length) => lengthOk length
  | .slot (.fill _ length _) => lengthOk length
  | .slot (.copy source destination length) =>
    lengthOk length && !rangesMeet (source, length) (destination, length)
  | .install _ spare => decide (spare < spares)
  | .withdrawSpare spare => decide (spare < spares)
  | .setRegion index valid base exponent _ =>
    decide (index < 8)
      && (!valid || (decide (20 ≤ exponent) && decide (exponent ≤ 34) && base % 2 ^ exponent == 0))
  | .setPatrol _ interval _ => interval != 0#16
  | .retire _ | .query _ | .clearSuspect _ | .fence | .abort _ => true

/-- Check 3: every host line and frame the command names lies in host memory (R131, R179). `hostFrames` is U. -/
def Command.addressesOk (hostFrames : Nat) : Command → Bool
  | .slot (.scrub first length _) => decide (first + length ≤ hostFrames * 64)
  | .slot (.verify first length) => decide (first + length ≤ hostFrames * 64)
  | .slot (.fill first length _) => decide (first + length ≤ hostFrames * 64)
  | .slot (.copy source destination length) =>
    decide (source + length ≤ hostFrames * 64) && decide (destination + length ≤ hostFrames * 64)
  | .retire frame => decide (frame < hostFrames)
  | .install frame _ => decide (frame < hostFrames)
  | .query frame => decide (frame < hostFrames)
  | .clearSuspect frame => decide (frame < hostFrames)
  | .withdrawSpare _ | .setRegion _ _ _ _ _ | .setPatrol _ _ _ | .fence | .abort _ => true

/-- The status of the first check a record fails, or the command it asks for (R131). -/
def State.judge (s : State) (r : CommandRecord) : Status ⊕ Command :=
  match r.command with
  | none => .inl .invalidCommand
  | some c =>
    if c.fieldsOk s.straps.spareFrames = false then .inl .invalidField
    else if c.addressesOk s.straps.hostFrames = false then .inl .badAddress
    else if r.tag ∈ s.tagSet then .inl .duplicateTag
    else .inr c

/-! ### Slot commands (R136, R145 to R147) -/

/-- The length of a slot command's range. -/
def SlotCommand.length : SlotCommand → Nat
  | .scrub _ length _ => length
  | .verify _ length => length
  | .fill _ length _ => length
  | .copy _ _ length => length

/-- The kind code of a slot command. -/
def SlotCommand.kindCode (c : SlotCommand) : BitVec 4 := (Command.slot c).kindCode

/-- The read set of a slot command (R136). -/
def SlotCommand.readSet : SlotCommand → Option (Nat × Nat)
  | .scrub first length _ => some (first, length)
  | .verify first length => some (first, length)
  | .fill _ _ _ => none
  | .copy source _ length => some (source, length)

/-- The write set of a slot command (R136). -/
def SlotCommand.writeSet : SlotCommand → Option (Nat × Nat)
  | .scrub first length _ => some (first, length)
  | .verify _ _ => none
  | .fill first length _ => some (first, length)
  | .copy _ destination length => some (destination, length)

/-- Two sets of host lines share a line. -/
def setsMeet : Option (Nat × Nat) → Option (Nat × Nat) → Bool
  | some a, some b => rangesMeet a b
  | _, _ => false

/-- A conflict between an occupied slot's command and the head (R136). -/
def SlotCommand.conflicts (occupant head : SlotCommand) : Bool :=
  setsMeet occupant.writeSet head.readSet || setsMeet occupant.writeSet head.writeSet
    || setsMeet occupant.readSet head.writeSet

/-- The source a slot command's detections carry (R146). FILL decodes nothing. -/
def SlotCommand.source : SlotCommand → Source
  | .scrub _ _ _ => .scrub
  | .verify _ _ => .verify
  | .fill _ _ _ => .copy
  | .copy _ _ _ => .copy

/-- A slot as it takes a command, with its first request WAITING (R138). -/
def Slot.taken (tag : Tag) (c : SlotCommand) : Slot :=
  { tag, command := c, progress := 0, corrected := 0, uncorrectable := 0, poisoned := 0, heldLine := none,
    phase := .waiting, abortedBy := none }

/-- Put a slot's place. -/
def State.setSlot (s : State) (k : Nat) (sl : Option Slot) : State :=
  s.withAdmission { s.admission with slots := s.admission.slots.set k sl }

/-- The slot k, if it is occupied. -/
def State.slotAt (s : State) (k : Nat) : Option Slot := placeAt s.admission.slots k

/-- The status of a slot command that is neither aborted nor refused (R147 cases 3 and 4). -/
def Slot.endStatus (sl : Slot) : Status :=
  match sl.command with
  | .fill _ _ _ => .success
  | .scrub _ _ _ | .verify _ _ | .copy _ _ _ => if 0 < sl.uncorrectable + sl.poisoned then .dataErrors else .success

/-- The completion of a slot command (R139, R147). -/
def Slot.completion (sl : Slot) (status : Status) : Completion :=
  { tag := sl.tag, kind := sl.command.kindCode, status, linesDone := sl.progress, corrected := sl.corrected,
    uncorrectable := sl.uncorrectable, poisoned := sl.poisoned, result := 0#28, accepted := true }

/-- The completion of an ABORT: every count and the result 0 (R132, R166). -/
def abortCompletion (tag : Tag) (status : Status) : Completion := Completion.plain tag 13#4 status

/-! ### The commands that act at issue (R137, spec 09) -/

/-- RETIRE at issue: CONFLICT, QUEUE_FULL, or its request joins the queue (R67, R158). -/
def State.issueRetire (s : State) (tag : Tag) (frame : Nat) : State :=
  if s.tables.retiring frame then s.complete (Completion.plain tag 5#4 .conflict)
  else if 8 ≤ s.tables.retireQueue.length then s.complete (Completion.plain tag 5#4 .queueFull)
  else s.joinQueue ⟨frame, .command tag, .command⟩

/-- INSTALL is refused: the spare is not FREE, the frame has an entry, or the queue holds a request for it (R56). -/
def Tables.installRefused (t : Tables) (frame spare : Nat) : Bool :=
  !(t.spares[spare]? == some .free) || (t.entryOf frame).isSome || t.queued frame

/-- INSTALL at issue (R56, R57, R159). -/
def State.issueInstall (s : State) (tag : Tag) (frame spare : Nat) : State :=
  if s.tables.installRefused frame spare then
    s.complete { Completion.plain tag 6#4 .conflict with result := installResult frame spare }
  else
    (s.withTables ((s.tables.putEntry frame (.active spare)).setSpare spare .assigned)).complete
      { Completion.plain tag 6#4 .success with result := installResult frame spare }

/-- WITHDRAW_SPARE at issue (R58, R160). A spare index of S or above never issues (R131). -/
def State.issueWithdraw (s : State) (tag : Tag) (spare : Nat) : State :=
  let st := (s.tables.spares[spare]?).getD .failed
  if st = .free then
    (s.withTables (s.tables.setSpare spare .failed)).complete
      { Completion.plain tag 7#4 .success with result := withdrawResult spare st }
  else s.complete { Completion.plain tag 7#4 .conflict with result := withdrawResult spare st }

/-- The retire state a QUERY reports (R61). -/
def Tables.reportedRetire (t : Tables) (frame : Nat) : RetireState :=
  if t.migratingFrame = some frame then .migrating
  else if t.queued frame then .queued
  else ((t.suspectOf frame).map (·.retire)).getD .none

/-- QUERY's completion (R60, R161). -/
def State.queryCompletion (s : State) (tag : Tag) (frame : Nat) : Completion :=
  let suspect := s.tables.suspectOf frame
  { Completion.plain tag 8#4 .success with
    corrected := (suspect.map (·.corrected)).getD 0
    uncorrectable := (suspect.map (·.uncorrectable)).getD 0
    poisoned := (suspect.map queryLastWord).getD 0
    result := queryResult (s.tables.entryOf frame) suspect.isSome (s.tables.reportedRetire frame) }

/-- QUERY at issue: it reads the tables and changes none (R60, R161). -/
def State.issueQuery (s : State) (tag : Tag) (frame : Nat) : State := s.complete (s.queryCompletion tag frame)

/-- CLEAR_SUSPECT at issue (R98, R162). -/
def State.issueClearSuspect (s : State) (tag : Tag) (frame : Nat) : State :=
  match s.tables.suspectOf frame with
  | none => s.complete (Completion.plain tag 9#4 .notFound)
  | some e =>
    let report (status : Status) : Completion :=
      { Completion.plain tag 9#4 status with
        corrected := e.corrected, uncorrectable := e.uncorrectable, result := clearResult e.retire }
    if e.pinned then s.complete (report .conflict)
    else (s.withTables (s.tables.removeSuspect frame)).complete (report .success)

/-- SET_REGION at issue (R46, R163). -/
def State.issueSetRegion (s : State) (tag : Tag) (index : Nat) (valid : Bool) (base exponent : Nat)
    (attributes : Attributes) : State :=
  let entry := if valid then some (⟨base, exponent, attributes⟩ : Region) else none
  (s.withTables { s.tables with regions := s.tables.regions.set index entry }).complete
    (Completion.plain tag 10#4 .success)

/-- The Patrol Unit after a SET_PATROL (R105, steps 1 to 4; the timer is not held, log 10). -/
def Patrol.set (p : Patrol) (enable : Bool) (interval : BitVec 16) (restart : Bool) : Patrol :=
  let phase := match p.phase with
    | .waiting _ _ => .idle
    | .idle => .idle
    | .inTenure line repair => .inTenure line repair
  let tenure := match p.phase with
    | .inTenure _ _ => true
    | .idle | .waiting _ _ => false
  { enabled := enable, interval, cursor := if restart then 0 else p.cursor, phase
    disowned := p.disowned || (restart && tenure) }

/-- SET_PATROL at issue (R105, R164). -/
def State.issueSetPatrol (s : State) (tag : Tag) (enable : Bool) (interval : BitVec 16) (restart : Bool) : State :=
  (s.withPatrol (s.patrol.set enable interval restart)).complete (Completion.plain tag 11#4 .success)

/-- FENCE at issue (R137, R165). -/
def State.issueFence (s : State) (tag : Tag) : State := s.complete (Completion.plain tag 12#4 .success)

/-! ### Issue (R134 to R136) -/

/-- A slot command may issue: a slot is free and no conflict stands (R136). -/
def State.slotReady (s : State) (c : SlotCommand) : Bool :=
  (firstFree s.admission.slots).isSome
    && s.admission.slots.all fun p => !(p.any fun occupant => occupant.command.conflicts c)

/-- A slot command takes the lowest-numbered empty slot (R136, R138). -/
def State.occupySlot (s : State) (tag : Tag) (c : SlotCommand) : State :=
  match firstFree s.admission.slots with
  | some k => s.setSlot k (some (Slot.taken tag c))
  | none => s

/-- The head may issue now (R134). -/
def State.mayIssue (s : State) : Command → Bool
  | .slot c => s.slotReady c
  | .fence => allFree s.admission.slots
  | .retire _ | .install _ _ | .withdrawSpare _ | .query _ | .clearSuspect _ | .setRegion _ _ _ _ _
  | .setPatrol _ _ _ | .abort _ => true

/-- What the head does when it issues (R134, R137). An ABORT never stands in the list (R132). -/
def State.issueCommand (s : State) (tag : Tag) : Command → State
  | .slot c => s.occupySlot tag c
  | .fence => s.issueFence tag
  | .retire frame => s.issueRetire tag frame
  | .install frame spare => s.issueInstall tag frame spare
  | .withdrawSpare spare => s.issueWithdraw tag spare
  | .query frame => s.issueQuery tag frame
  | .clearSuspect frame => s.issueClearSuspect tag frame
  | .setRegion index valid base exponent attributes => s.issueSetRegion tag index valid base exponent attributes
  | .setPatrol enable interval restart => s.issueSetPatrol tag enable interval restart
  | .abort _ => s

/-- Issue from the head of the list, until it is empty or the head cannot issue (R135). -/
def issueFrom : List PendingCommand → State → State
  | [], s => s
  | p :: rest, s =>
    if s.engine.state.issues ∧ s.mayIssue p.command then
      issueFrom rest ((s.withAdmission { s.admission with pendingList := rest }).issueCommand p.tag p.command)
    else s

/-- The head of the pending list is judged for issue (R135). -/
def State.issueAll (s : State) : State := issueFrom s.admission.pendingList s

/-! ### A slot ends (R133, R139) -/

/-- The completions of a slot that ends, in their order: its own, then the ABORT's it holds (R133, R139). -/
def Slot.completions (sl : Slot) (status : Status) : List Completion :=
  match sl.abortedBy with
  | none => [sl.completion status]
  | some tag => [sl.completion .aborted, abortCompletion tag .success]

/-- A slot ends with its completions, empties, and the head is judged for issue (R133, R139). -/
def State.endSlot (s : State) (k : Nat) (sl : Slot) (status : Status) : State :=
  (((sl.completions status).foldl State.complete s).setSlot k none).issueAll

/-- A count raised and saturating at 65,535 (R146). -/
def saturate (n : Nat) : Nat := min 65535 n

/-- A slot's counts after the reports of a decoding tenure (R146). -/
def Slot.count (sl : Slot) (reports : List WordReport) : Slot :=
  { sl with
    corrected := saturate (sl.corrected + countReports (·.isCorrected) reports)
    uncorrectable := saturate (sl.uncorrectable + countReports (·.isUncorrectable) reports)
    poisoned := saturate (sl.poisoned + countReports (·.isPoisoned) reports) }

/-- A slot's progress after a tenure: COPY's source read leaves a held line, any other tenure finishes a line
(R139 step 2, R153). -/
def Slot.advance (sl : Slot) (reports : List WordReport) : Slot :=
  match sl.command, sl.heldLine with
  | .copy _ _ _, none => { sl with heldLine := some (reports.filterMap (·.decoded)) }
  | .copy _ _ _, some _ => { sl with heldLine := none, progress := sl.progress + 1 }
  | .scrub _ _ _, _ | .verify _ _, _ | .fill _ _ _, _ => { sl with progress := sl.progress + 1 }

/-- A slot's tenure ends with these reports (R139, steps 1 to 3). -/
def State.endSlotTenure (s : State) (k : Nat) (sl : Slot) (line : Nat) (reports : List WordReport) : State :=
  let s := s.handWords sl.command.source (some sl.tag) line reports
  let sl := (sl.count reports).advance reports
  if sl.abortedBy.isSome then s.endSlot k sl .aborted
  else if sl.command.length ≤ sl.progress then s.endSlot k sl sl.endStatus
  else if s.engine.state = .halted then s.setSlot k (some { sl with phase := .held })
  else s.setSlot k (some { sl with phase := .waiting })

/-- A write of a FILL or COPY refused at its grant: the slot ends with PROTECTED, its held line dropped (R152, R155). -/
def State.endRefusedSlot (s : State) (k : Nat) (sl : Slot) : State := s.endSlot k sl .lineProtected

/-! ### ABORT (R132, R133) -/

/-- Where an ABORT finds its target among the working commands (R132). -/
inductive AbortTarget where
  | pending (p : PendingCommand)
  | slot (index : Nat) (s : Slot)
  | queued (r : RetireRequest)
  | migrating (m : MigrationRecord)
  | notFound
deriving DecidableEq, Repr

/-- The slot that holds an unmarked command with the tag (R132). -/
def State.workingSlot (s : State) (target : Tag) : Option (Nat × Slot) :=
  match s.admission.slots.findIdx? (fun p => p.any fun sl => sl.tag == target && sl.abortedBy.isNone) with
  | none => none
  | some k => (s.slotAt k).map fun sl => (k, sl)

/-- The queued or migrating RETIRE with the tag (R132). -/
def State.workingRetire (s : State) (target : Tag) : AbortTarget :=
  match s.tables.retireQueue.find? (fun r => r.origin == .command target) with
  | some r => .queued r
  | none =>
    match s.tables.migration with
    | some m => if m.origin = .command target then .migrating m else .notFound
    | none => .notFound

/-- Seek the target tag, in the order of R132's table. -/
def State.abortTarget (s : State) (target : Tag) : AbortTarget :=
  match s.admission.pendingList.find? (fun p => p.tag == target) with
  | some p => .pending p
  | none =>
    match s.workingSlot target with
    | some (k, sl) => .slot k sl
    | none => s.workingRetire target

/-- A pending target: removed, and completed ABORTED with lines done, counts and result 0 (R132). -/
def State.abortPending (s : State) (p : PendingCommand) : State :=
  (s.withAdmission { s.admission with pendingList := s.admission.pendingList.filter fun q => !(q.tag == p.tag) }).complete
    (Completion.plain p.tag p.command.kindCode .aborted)

/-- A slot target whose request is WAITING: withdrawn, the slot empties, and the target completes ABORTED (R133). -/
def State.abortWaitingSlot (s : State) (k : Nat) (sl : Slot) : State :=
  (s.complete (sl.completion .aborted)).setSlot k none

/-- An ABORT is carried out (R132, R133): the target, then the ABORT's own completion, then the next migration start
and the judgement of the head. -/
def State.abort (s : State) (tag target : Tag) : State :=
  match s.abortTarget target with
  | .pending p => ((s.abortPending p).complete (abortCompletion tag .success)).issueAll
  | .slot k sl =>
    if sl.phase = .inTenure then s.setSlot k (some { sl with abortedBy := some tag })
    else ((s.abortWaitingSlot k sl).complete (abortCompletion tag .success)).issueAll
  | .queued r => ((s.abortQueued r).complete (abortCompletion tag .success)).issueAll
  | .migrating m => ((s.abortMigration m).complete (abortCompletion tag .success)).startMigrations.issueAll
  | .notFound => (s.complete (abortCompletion tag .notFound)).issueAll

/-! ### A record judged (R131) -/

/-- The completion of a refused record: its tag and kind as read, no counts, no place in the tag set (R131). -/
def refusedCompletion (r : CommandRecord) (status : Status) : Completion :=
  { Completion.plain r.tag r.kind status with accepted := false }

/-- An accepted command joins the tail of the pending list and the head is judged for issue (R131, R135). -/
def State.enlist (s : State) (tag : Tag) (c : Command) : State :=
  (s.withAdmission { s.admission with pendingList := s.admission.pendingList ++ [⟨tag, c⟩] }).issueAll

/-- A record read whole is judged, and refused, carried out as ABORT, or admitted (R131). -/
def State.takeRecord (s : State) (r : CommandRecord) : State :=
  match s.judge r with
  | .inl status => s.complete (refusedCompletion r status)
  | .inr (.abort target) => s.abort r.tag target
  | .inr c => s.enlist r.tag c

end Sys2Proof.Machine
end

