-- ==== Sys2Proof/Machine/EngineControl.lean ====
section
/-!
DEFINITION. Engine Control (spec 07): halt (R122, R123), engine reset (R124), START, QUIESCE and the anchor (R111 to
R116), the index registers (R118 to R121), and the delivery of posted register writes (R41, R109).
-/

namespace Sys2Proof.Machine

/-- Change the engine's registers. -/
def State.modifyEngine (s : State) (f : Engine → Engine) : State := s.withEngine (f s.engine)

/-! ### Halt (R122, R123) -/

/-- A slot at a halt: a WAITING request is withdrawn and the slot is HELD (R140). -/
def Slot.atHalt (sl : Slot) : Slot := if sl.phase = .waiting then { sl with phase := .held } else sl

/-- The patrol when its WAITING request is withdrawn: IDLE, its cursor kept (R106). -/
def Patrol.withdraw (p : Patrol) : Patrol :=
  match p.phase with
  | .waiting _ _ => { p with phase := .idle }
  | .idle | .inTenure _ _ => p

/-- The engine halts while RUNNING, QUIESCING or QUIESCED (R122): HALTED with the cause latched; slots held (R140),
patrol withdrawn (R106). The RING request is withdrawn because nothing of the Ring Unit's is ready in HALTED (R123). -/
def State.halt (s : State) (cause : HaltCause) : State :=
  if s.engine.state.posts then
    ((s.modifyEngine fun e => { e with state := .halted, haltCause := cause }).withPatrol s.patrol.withdraw).withAdmission
      { s.admission with slots := s.admission.slots.map (Option.map Slot.atHalt) }
  else s

/-! ### Engine reset (R124) -/

/-- Engine Control after an engine reset: ANCHOR and the CTRL enables stand (R124, R127). -/
def Engine.afterReset (e : Engine) : Engine := { Engine.reset with anchor := e.anchor, enables := e.enables }

/-- The work whose reports an engine reset makes worthless: all but PORT's (R27, R125). -/
def Work.ofEngine : Work → Bool
  | .hostRead | .drain => false
  | .anchorRead | .fetch | .completionPost | .eventPost | .copyStep | .slotStep _ | .patrolStep => true

/-- An engine reset, from any state (R124, R125): Fault Capture, the port, the Region Table's entries, ACTIVE entries
and the arbiter's records stand. -/
def State.engineReset (s : State) : State :=
  let s := s.discardTenure Work.ofEngine
  let s := s.withAdmission ⟨[], List.replicate 4 none, []⟩
  let s := s.withNews { s.news with events := [], overflow := none }
  let s := s.withTables s.tables.engineReset
  let s := s.withPatrol .reset
  s.withEngine s.engine.afterReset

/-! ### START and QUIESCE (R111, R115, R116) -/

/-- START in OFF (R111, steps 1 to 4). -/
def State.startFromOff (s : State) : State :=
  let s := s.modifyEngine fun e =>
    { e with startError := .none, sqTail := 0#16, cqHead := 0#16, eqHead := 0#16 }
  if s.straps.hostLines ≤ s.engine.anchor.toNat then
    s.modifyEngine fun e => { e with startError := .anchorUnreadable }
  else
    s.modifyEngine fun e => { e with state := .starting, anchorRequest := some e.anchor.toNat }

/-- START acts in OFF and in QUIESCED, and is ignored elsewhere (R109, R111, R115). -/
def State.startAction (s : State) : State :=
  match s.engine.state with
  | .off => s.startFromOff
  | .quiesced => s.modifyEngine fun e => { e with state := .running }
  | .starting | .running | .quiescing | .halted => s

/-- QUIESCING passes to QUIESCED once the pending list, the slots and the backlog are empty and no fetch tenure is in
progress (R116). -/
def State.quiesceTest (s : State) : State :=
  if s.engine.state = .quiescing ∧ s.admission.pendingList = [] ∧ allFree s.admission.slots ∧ s.admission.backlog = []
      ∧ s.fetchInTenure = false then
    s.modifyEngine fun e => { e with state := .quiesced }
  else s

/-- QUIESCE acts in RUNNING, and is ignored elsewhere (R109, R116). -/
def State.quiesceAction (s : State) : State :=
  match s.engine.state with
  | .running => (s.modifyEngine fun e => { e with state := .quiescing }).quiesceTest
  | .off | .starting | .quiescing | .quiesced | .halted => s

/-! ### CTRL (R109) -/

/-- The enable bits of a value written to CTRL (11.6). -/
def enablesOfValue (v : BitVec 32) : Enables := ⟨v.getLsbD 8, v.getLsbD 9, v.getLsbD 10⟩

/-- A CTRL write takes effect (R109, steps 1 to 3). No state admits both START and QUIESCE. -/
def State.writeCtrl (s : State) (v : BitVec 32) : State :=
  let s := s.modifyEngine fun e => { e with enables := enablesOfValue v }
  if v.getLsbD 2 then s.engineReset
  else if v.getLsbD 0 ∧ (s.engine.state = .off ∨ s.engine.state = .quiesced) then s.startAction
  else if v.getLsbD 1 then s.quiesceAction
  else s

/-! ### The index registers (R118 to R121, R182) -/

/-- An SQ_TAIL value takes effect (R121). -/
def State.writeSqTail (s : State) (v : BitVec 16) : State :=
  match s.engine.state.posts, s.engine.rings with
  | true, some r =>
    if v.toNat < r.sq.entries then s.modifyEngine fun e => { e with sqTail := v } else s.halt .badSqTail
  | _, _ => s.modifyEngine fun e => { e with sqTail := v }

/-- A head write is legal: below N, and no further from the old head than the producer (R120). -/
def headLegal (r : Ring) (producer old new : Nat) : Bool :=
  decide (new < r.entries) && decide (ringDistance r.entries new old ≤ ringDistance r.entries producer old)

/-- A CQ_HEAD write takes effect (R120, R121). -/
def State.writeCqHead (s : State) (v : BitVec 16) : State :=
  match s.engine.state.posts, s.engine.rings with
  | true, some r =>
    if headLegal r.cq r.cqProducer s.engine.cqHead.toNat v.toNat then s.modifyEngine fun e => { e with cqHead := v }
    else s.halt .badCqHead
  | _, _ => s.modifyEngine fun e => { e with cqHead := v }

/-- An EQ_HEAD write takes effect (R120, R121). -/
def State.writeEqHead (s : State) (v : BitVec 16) : State :=
  match s.engine.state.posts, s.engine.rings with
  | true, some r =>
    if headLegal r.eq r.eqProducer s.engine.eqHead.toNat v.toNat then s.modifyEngine fun e => { e with eqHead := v }
    else s.halt .badEqHead
  | _, _ => s.modifyEngine fun e => { e with eqHead := v }

/-! ### The anchor (R112 to R114, R178) -/

/-- A ring's extent in bytes: its base and its entries times its record size (R113, R117). -/
def Ring.extent (r : Ring) (recordSize : Nat) : Nat × Nat := (r.base, r.entries * recordSize)

/-- A ring's base is a multiple of 4096 and it lies wholly in host memory (R113). -/
def Ring.placed (r : Ring) (recordSize hostFrames : Nat) : Bool :=
  r.base % 4096 == 0 && decide (r.base + r.entries * recordSize ≤ hostFrames * 4096)

/-- Check 2 of the anchor: the size exponents (R113). -/
def AnchorRecord.sizesOk (a : AnchorRecord) : Bool :=
  decide (4 ≤ a.sq.exponent) && decide (a.sq.exponent ≤ 12) && decide (4 ≤ a.cq.exponent) && decide (a.cq.exponent ≤ 12)
    && decide (4 ≤ a.eq.exponent) && decide (a.eq.exponent ≤ 10)

/-- Check 3 of the anchor: alignment, extent, and no byte in two rings (R113). -/
def AnchorRecord.placementOk (a : AnchorRecord) (hostFrames : Nat) : Bool :=
  a.sq.placed 64 hostFrames && a.cq.placed 16 hostFrames && a.eq.placed 32 hostFrames
    && !rangesMeet (a.sq.extent 64) (a.cq.extent 16) && !rangesMeet (a.sq.extent 64) (a.eq.extent 32)
    && !rangesMeet (a.cq.extent 16) (a.eq.extent 32)

/-- The start error of the first check the anchor fails, NONE if it passes all (R113). -/
def AnchorRecord.validate (a : AnchorRecord) (hostFrames : Nat) : StartError :=
  if a.version ≠ 1 then .anchorVersion
  else if a.sizesOk = false then .ringSize
  else if a.placementOk hostFrames = false then .ringPlacement
  else if a.threshold < 1 ∨ 255 < a.threshold then .threshold
  else .none

/-- A start fails: the engine returns to OFF with the start error (R112, R113). -/
def State.failStart (s : State) (err : StartError) : State :=
  s.modifyEngine fun e => { e with state := .off, startError := err }

/-- What an accepted anchor gives the engine (R114, steps 1 to 3). -/
def Engine.accept (e : Engine) (a : AnchorRecord) : Engine :=
  { e with
    state := .running
    rings := some ⟨a.sq, a.cq, a.eq, 0, 0, 0, true, true⟩
    threshold := a.threshold
    reportCorrected := a.reportCorrected }

/-- The index registers judged at the end of a start (R114 step 4). -/
def State.judgeIndices (s : State) (a : AnchorRecord) : State :=
  if a.sq.entries ≤ s.engine.sqTail.toNat then s.halt .badSqTail
  else if s.engine.cqHead ≠ 0#16 then s.halt .badCqHead
  else if s.engine.eqHead ≠ 0#16 then s.halt .badEqHead
  else s

/-- The anchor passes every check (R114). -/
def State.acceptAnchor (s : State) (a : AnchorRecord) : State :=
  ((s.withTables { s.tables with defaults := a.attributes }).modifyEngine fun e => e.accept a).judgeIndices a

/-- The words of a record from the reports of a full-line read (R112, R130). -/
def recordWords (reports : List WordReport) : List DataWord := reports.filterMap fun r => r.decoded.map (·.2)

/-- The anchor read ends with these reports (R112, R113). -/
def State.endAnchorRead (s : State) (line : Nat) (reports : List WordReport) : State :=
  let s := s.handWords .fetch none line reports
  let a := anchorOfWords (recordWords reports)
  if anyLost reports then s.failStart .anchorUnreadable
  else if a.validate s.straps.hostFrames = .none then s.acceptAnchor a
  else s.failStart (a.validate s.straps.hostFrames)

/-! ### The end of a fetch (R130) -/

/-- The fetch index advances by 1, modulo N (R118). -/
def State.advanceFetch (s : State) : State :=
  s.modifyEngine fun e => { e with rings := e.rings.map fun r => { r with fetch := r.sq.next r.fetch } }

/-- A fetch ends with these reports (R130): the index, the detections, then the record, by the engine state. -/
def State.endFetch (s : State) (line : Nat) (reports : List WordReport) : State :=
  let s := s.advanceFetch.handWords .fetch none line reports
  if s.engine.state.issues then
    if anyLost reports then s.halt .commandUnreadable
    else s.takeRecord (recordOfWords (recordWords reports))
  else s

/-! ### Posted register writes (R41) -/

/-- A posted register write is delivered to Engine Control (R41, R109, R121, R182). -/
def State.deliver (s : State) (target : PostedRegister) (v : BitVec 32) : State :=
  match target with
  | .ctrl => s.writeCtrl v
  | .sqTail => s.writeSqTail (v.extractLsb' 0 16)

/-- Put the Write Post Buffer. -/
def State.setBuffer (s : State) (b : List PostEntry) : State := s.withPort { s.port with buffer := b }

/-- Register entries at the head take effect in acceptance order and leave, until a memory entry is the head (R41). -/
def deliverFrom : List PostEntry → State → State
  | .register target v :: rest, s => deliverFrom rest ((s.setBuffer rest).deliver target v)
  | [], s => s
  | .memory _ _ _ :: _, s => s

/-- The register entries that have reached the head take effect (R36 step 1, R41). -/
def State.deliverHeads (s : State) : State := deliverFrom s.port.buffer s

end Sys2Proof.Machine
end

