-- ==== Sys2Proof/Machine/Arbitration.lean ====
section
/-!
DEFINITION. The Channel Arbiter (R19 to R26): what each requester has ready, the choice, the grant with its tenure's
effect, and how a happening concludes (grant, QUIESCED test, ATTN).
-/

namespace Sys2Proof.Machine

/-! ### What the requesters have ready -/

/-- The work PORT presents (R31). -/
inductive PortWork where
  | read (line : Nat) (mask : BitVec 8)
  | drain (line : Nat) (mask : BitVec 64) (data : BitVec 512)
deriving DecidableEq, Repr

/-- A memory entry for the host line. -/
def PostEntry.isFor (e : PostEntry) (line : Nat) : Bool :=
  match e with
  | .memory l _ _ => l == line
  | .register _ _ => false

/-- A held read is blocked while the buffer holds a memory entry for its line (R30). -/
def Port.blocked (p : Port) (line : Nat) : Bool := p.buffer.any fun e => e.isFor line

/-- The drain of the head memory entry (R36). -/
def Port.drainWork (p : Port) : Option PortWork :=
  match p.buffer with
  | .memory line mask data :: _ => some (.drain line mask data)
  | .register _ _ :: _ | [] => none

/-- The work PORT presents at a grant, by R31's table. -/
def Port.work (p : Port) : Option PortWork :=
  match p.held with
  | .readHeld line mask =>
    if p.blocked line then p.drainWork else if p.buffer.length < 8 then some (.read line mask) else p.drainWork
  | .idle | .writeHeld _ => p.drainWork

/-- The ring work in the order of R21. -/
inductive RingWork where
  | anchor (line : Nat)
  | completion (r : Rings) (c : Completion) (rest : List Completion)
  | event (r : Rings) (e : EventRecord) (rest : List EventRecord)
  | fetch (r : Rings)
deriving DecidableEq, Repr

/-- The fetch of the next record is ready (R129). -/
def State.fetchReady (s : State) (r : Rings) : Bool :=
  s.engine.state == .running && !(r.fetch == s.engine.sqTail.toNat) && decide (s.admission.pendingList.length < 16)
    && decide (s.liveCount < 32) && !s.fetchInTenure

/-- The fetch, if it is ready. -/
def State.fetchWork (s : State) (r : Rings) : Option RingWork := if s.fetchReady r then some (.fetch r) else none

/-- The event post, if there is a record and the ring has room (R119, R172), else the fetch. -/
def State.eventWork (s : State) (r : Rings) : Option RingWork :=
  match s.news.events with
  | e :: rest => if r.eq.room r.eqProducer s.engine.eqHead.toNat then some (.event r e rest) else s.fetchWork r
  | [] => s.fetchWork r

/-- The completion post, if there is one and the ring has room (R119, R141), else the event post, else the fetch. -/
def State.postWork (s : State) (r : Rings) : Option RingWork :=
  match s.admission.backlog with
  | c :: rest => if r.cq.room r.cqProducer s.engine.cqHead.toNat then some (.completion r c rest) else s.eventWork r
  | [] => s.eventWork r

/-- The work RING presents at a grant (R21, R108): the anchor read while STARTING; posts and the fetch while RUNNING,
QUIESCING or QUIESCED; nothing in OFF and HALTED. -/
def State.ringWork (s : State) : Option RingWork :=
  match s.engine.state with
  | .starting => s.engine.anchorRequest.map .anchor
  | .running | .quiescing | .quiesced => s.engine.rings.bind s.postWork
  | .off | .halted => none

/-- The tenure a slot asks for: kind, line and particulars (R148, R150, R151, R153). -/
inductive SlotRequest where
  | repair (line : Nat) (poison : Bool)
  | read (line : Nat)
  | write (line : Nat) (words : List WordWrite)
deriving DecidableEq, Repr

/-- The request of a slot: line number `progress` of its command (R145). -/
def Slot.request (sl : Slot) : SlotRequest :=
  match sl.command with
  | .scrub first _ poison => .repair (first + sl.progress) poison
  | .verify first _ => .read (first + sl.progress)
  | .fill first _ pattern => .write (first + sl.progress) (fillWordWrites pattern)
  | .copy source destination _ =>
    match sl.heldLine with
    | none => .read (source + sl.progress)
    | some held => .write (destination + sl.progress) (copyWordWrites held)

/-- The slot k has a request waiting. -/
def State.slotWaiting (s : State) (k : Nat) : Bool := (s.slotAt k).any fun sl => sl.phase == .waiting

/-- The slots in the order they are examined: from the slot after the one last granted (R23). -/
def slotOrder (lastSlot : Nat) : List Nat := (List.range 4).map fun i => (lastSlot + 1 + i) % 4

/-- The patrol has a request waiting. -/
def Patrol.isWaiting (p : Patrol) : Bool :=
  match p.phase with
  | .waiting _ _ => true
  | .idle | .inTenure _ _ => false

/-- A requester, if it has a request waiting. -/
def waitingIf (b : Bool) (r : Requester) : List Requester := if b then [r] else []

/-- The waiting requests, in the grant order of R23. -/
def State.waiting (s : State) : List Requester :=
  waitingIf s.port.work.isSome .port
    ++ waitingIf (s.tables.migration.any fun m => m.step == .waiting) .migration
    ++ waitingIf s.ringWork.isSome .ring
    ++ ((slotOrder s.arbiter.lastSlot).filter s.slotWaiting).map .slot
    ++ waitingIf s.patrol.isWaiting .patrol

/-! ### The choice (R23, R24) -/

/-- The requester granted among those waiting (in the order of R23), as the guard limits it (R24). -/
def chooseFrom (guard : Nat) : List Requester → Option Requester
  | [] => none
  | .port :: other :: _ => if 8 ≤ guard then some other else some .port
  | r :: _ => some r

/-- The guard count after a grant (R24). -/
def guardAfter (guard : Nat) (waiting : List Requester) : Requester → Nat
  | .port => if 1 < waiting.length then guard + 1 else 0
  | .migration | .ring | .slot _ | .patrol => 0

/-- The last slot after a grant (R23). -/
def lastSlotAfter (lastSlot : Nat) : Requester → Nat
  | .slot k => k
  | .port | .migration | .ring | .patrol => lastSlot

/-- The arbiter's records after a grant (R23, R24, R26). -/
def State.noteGrant (s : State) (r : Requester) : State :=
  s.withArbiter { s.arbiter with
    lastSlot := lastSlotAfter s.arbiter.lastSlot r, guard := guardAfter s.arbiter.guard s.waiting r }

/-! ### The grants -/

/-- A grant of PORT (R31, R36). -/
def State.grantPort (s : State) : State :=
  match s.port.work with
  | some (.read line mask) => s.beginTenure .hostRead line (s.readEffect line mask)
  | some (.drain line mask data) => s.beginTenure .drain line (s.writeEffect line (hostWordWrites mask data))
  | none => s

/-- A grant of MIGRATION: the Copy Step at the cursor (R55, R75). -/
def State.grantMigration (s : State) : State :=
  match s.tables.migration with
  | some m =>
    let line := m.frame * 64 + s.tables.cursorOf m.frame
    let s := s.beginTenure .copyStep line (s.copyEffect line)
    s.withTables { s.tables with migration := some { m with step := .inTenure } }
  | none => s

/-- A completion post, settled at its grant (R117, R119, R128, R141). -/
def State.postCompletion (s : State) (r : Rings) (c : Completion) (rest : List Completion) : State :=
  let line := r.cq.base / 64 + r.cqProducer / 4
  let s := s.beginTenure .completionPost line
    (s.writeEffect line (wholeWordWrites (2 * (r.cqProducer % 4)) (c.words r.cqLap)))
  let s := s.withAdmission { s.admission with backlog := rest }
  let next := r.cq.next r.cqProducer
  s.modifyEngine fun e => { e with rings := some { r with cqProducer := next, cqLap := if next = 0 then !r.cqLap else r.cqLap } }

/-- The OVERFLOW record of a summary (R171). -/
def Overflow.event (o : Overflow) : EventRecord :=
  { kind := .overflow, source := o.firstSource, count := o.count, firstLost := some o.firstKind }

/-- The event list after a place is freed: a pending summary's OVERFLOW record joins it (R171). -/
def News.afterPost (n : News) (rest : List EventRecord) : News :=
  match n.overflow with
  | none => { n with events := rest }
  | some o => { n with events := rest ++ [o.event], overflow := none }

/-- An event post, settled at its grant (R117, R119, R171, R172). -/
def State.postEvent (s : State) (r : Rings) (e : EventRecord) (rest : List EventRecord) : State :=
  let line := r.eq.base / 64 + r.eqProducer / 2
  let s := s.beginTenure .eventPost line
    (s.writeEffect line (wholeWordWrites (4 * (r.eqProducer % 2)) (e.words r.eqLap)))
  let s := s.withNews (s.news.afterPost rest)
  let next := r.eq.next r.eqProducer
  s.modifyEngine fun e => { e with rings := some { r with eqProducer := next, eqLap := if next = 0 then !r.eqLap else r.eqLap } }

/-- A grant of RING (R21, R112, R119, R129). -/
def State.grantRing (s : State) : State :=
  match s.ringWork with
  | some (.anchor line) =>
    (s.beginTenure .anchorRead line (s.readEffect line 0xFF#8)).modifyEngine fun e => { e with anchorRequest := none }
  | some (.completion r c rest) => s.postCompletion r c rest
  | some (.event r e rest) => s.postEvent r e rest
  | some (.fetch r) =>
    let line := r.sq.base / 64 + r.fetch
    s.beginTenure .fetch line (s.readEffect line 0xFF#8)
  | none => s

/-- The host line a slot's request names. -/
def SlotRequest.line : SlotRequest → Nat
  | .repair line _ => line
  | .read line => line
  | .write line _ => line

/-- The effect of a slot's tenure as routed (R53, R54). -/
def State.slotEffect (s : State) : SlotRequest → TenureEffect
  | .repair line poison => s.repairEffect line poison
  | .read line => s.readEffect line 0xFF#8
  | .write line words => s.writeEffect line words

/-- A grant of slot k that is not refused. -/
def State.grantSlot (s : State) (k : Nat) : State :=
  match s.slotAt k with
  | some sl =>
    (s.beginTenure (.slotStep k) sl.request.line (s.slotEffect sl.request)).setSlot k (some { sl with phase := .inTenure })
  | none => s

/-- A grant of PATROL: the kind settled when the request was raised (R102). -/
def State.grantPatrol (s : State) : State :=
  match s.patrol.phase with
  | .waiting line repair =>
    let effect := if repair then s.repairEffect line true else s.readEffect line 0xFF#8
    (s.beginTenure .patrolStep line effect).withPatrol { s.patrol with phase := .inTenure line repair }
  | .idle | .inTenure _ _ => s

/-- A grant that is not refused (R22, R25). -/
def State.grant (s : State) : Requester → State
  | .port => s.grantPort
  | .migration => s.grantMigration
  | .ring => s.grantRing
  | .slot k => s.grantSlot k
  | .patrol => s.grantPatrol

/-- The write of a FILL or COPY is refused at its grant by WRITE_PROTECT, as the Region Table then stands (R26, R152,
R155). -/
def State.refusedSlot (s : State) : Requester → Option (Nat × Slot)
  | .slot k =>
    match s.slotAt k with
    | some sl =>
      match sl.request with
      | .write line _ => if (s.tables.attributesOfLine line).writeProtect then some (k, sl) else none
      | .repair _ _ | .read _ => none
    | none => none
  | .port | .migration | .ring | .patrol => none

/-- While the channel is free and a request waits, grant one; a refused grant ends at once and the next choice follows
(R22, R26). The number bounds the refused grants of one happening: each ends one command (log 16). -/
def arbitrateFrom : Nat → State → State
  | 0, s => s
  | n + 1, s =>
    if s.arbiter.tenure.isSome then s
    else
      match chooseFrom s.arbiter.guard s.waiting with
      | none => s
      | some r =>
        match s.refusedSlot r with
        | some (k, sl) => arbitrateFrom n ((s.noteGrant r).endRefusedSlot k sl)
        | none => (s.noteGrant r).grant r

/-- The arbiter's grants of one happening (R22). -/
def State.arbitrate (s : State) : State :=
  arbitrateFrom (occupied s.admission.slots + s.admission.pendingList.length + 1) s

/-- ATTN follows its inputs in the happening in which any of them changes (R126). -/
def State.settleAttn (s : State) : State := s.withAttn s.attnLevel

/-- What every happening that raises a request or moves the engine ends with: the arbiter's grants (R22), the test for
QUIESCED (R116), and the ATTN level (R126). -/
def State.conclude (s : State) : State := s.arbitrate.quiesceTest.settleAttn

end Sys2Proof.Machine
end

