-- ==== Sys2Proof/Machine/HostPort.lean ====
section
/-!
DEFINITION. The Host Port (spec 03): answers, the acceptance of writes (R34, R38, R41), register writes (R40, R182), and
the meanings of the host's commands HOST_READ, HOST_WRITE, the register writes, HOST_READ_END and DRAIN_END.
-/

namespace Sys2Proof.Machine

/-! ### Shared operations of the port -/

/-- The port answers the host (R28). -/
def State.respond (s : State) (code : ResponseCode) (words : List (Nat × DataWord)) : State :=
  s.withPort { s.port with answer := some ⟨code, words⟩ }

/-- The port holds a request, or none (R28). -/
def State.hold (s : State) (h : HeldRequest) : State := s.withPort { s.port with held := h }

/-- An entry joins the tail of the buffer (R34, R41); a register entry that finds itself the head takes effect (R41). -/
def State.joinBuffer (s : State) (e : PostEntry) : State := (s.setBuffer (s.port.buffer ++ [e])).deliverHeads

/-- The acceptance of a write: a memory write is judged against the Region Table as it now stands, a register write is
never refused (R34, R41). -/
def State.acceptEntry (s : State) (e : PostEntry) : State :=
  match e with
  | .memory line _ _ =>
    if (s.tables.attributesOfLine line).writeProtect then
      (s.respond .lineProtected []).offer { kind := .writeRefused, source := .hostWrite, line }
    else (s.respond .accepted []).joinBuffer e
  | .register _ _ => (s.respond .accepted []).joinBuffer e

/-- A write arrives: accepted at once if the buffer has a free place, else held in WRITE_HELD (R28, R34, R41). -/
def State.presentWrite (s : State) (e : PostEntry) : State :=
  if s.port.buffer.length < 8 then s.acceptEntry e else s.hold (.writeHeld e)

/-- A write held in WRITE_HELD is accepted or refused, and the port returns to IDLE (R36 step 2, R38). -/
def State.acceptHeld (s : State) : State :=
  match s.port.held with
  | .writeHeld e => (s.hold .idle).acceptEntry e
  | .idle | .readHeld _ _ => s

/-- A host request is taken only while RESET is not asserted (R1) and the port is IDLE (R28); otherwise it changes
nothing (log 5). -/
def State.hostTakes (s : State) : Bool := !s.resetAsserted && s.port.held == .idle

/-- Run a host request if the port takes it. -/
def State.hostRequest (s : State) (f : State → State) : Host.Outcome State Fault Refusal :=
  .next (if s.hostTakes then f s else s)

/-- A write of a posted register arrives (R41). -/
def State.postRegister (s : State) (target : PostedRegister) (v : BitVec 32) : State :=
  (s.presentWrite (.register target v)).conclude

/-! ### Registers written at acceptance (R40) -/

/-- A write of CQ_HEAD: answered, and taken at once (R40, R120). -/
def State.acceptCqHead (s : State) (v : BitVec 32) : State :=
  ((s.respond .accepted []).writeCqHead (v.extractLsb' 0 16)).conclude

/-- A write of EQ_HEAD: answered, and taken at once (R40, R120). -/
def State.acceptEqHead (s : State) (v : BitVec 32) : State :=
  ((s.respond .accepted []).writeEqHead (v.extractLsb' 0 16)).conclude

/-- A write of ANCHOR: bits 27:0 are stored, in any engine state (R121, R182). -/
def State.acceptAnchorWrite (s : State) (v : BitVec 32) : State :=
  (s.respond .accepted []).modifyEngine fun e => { e with anchor := v.extractLsb' 0 28 }

/-- A write of FAULT_INFO: with the clear bit set Fault Capture is emptied, with it clear nothing changes (R176). -/
def State.acceptFaultInfo (s : State) (v : BitVec 32) : State :=
  if v.getLsbD 31 then
    (s.respond .accepted []).withNews { s.news with capture := none }
  else s.respond .accepted []

/-- A register write by offset (R40, R41, R182; 11.6). A write to STAT, to FAULT_ADDR or to an offset that names no
register is answered ACCEPTED and changes nothing. -/
def State.writeRegister (s : State) (offset : Nat) (v : BitVec 32) : State :=
  if offset = 0x00 then s.postRegister .ctrl v
  else if offset = 0x08 then s.acceptAnchorWrite v
  else if offset = 0x0C then s.postRegister .sqTail v
  else if offset = 0x10 then s.acceptCqHead v
  else if offset = 0x14 then s.acceptEqHead v
  else if offset = 0x1C then s.acceptFaultInfo v
  else s.respond .accepted []

/-! ### Host memory requests -/

/-- A memory read arrives (R29, R30): ADDRESS_ERROR beyond host memory, OKAY at once with an all-zero mask, else held. -/
def State.takeRead (s : State) (line : Nat) (mask : BitVec 8) : State :=
  if s.straps.hostLines ≤ line then s.respond .addressError []
  else if mask = 0#8 then s.respond .okay []
  else (s.hold (.readHeld line mask)).conclude

/-- A memory write arrives (R29, R34): ADDRESS_ERROR beyond host memory, ACCEPTED and discarded with an all-zero mask,
else accepted, refused or held. -/
def State.takeWrite (s : State) (line : Nat) (mask : BitVec 64) (data : BitVec 512) : State :=
  if s.straps.hostLines ≤ line then s.respond .addressError []
  else if mask = 0#64 then s.respond .accepted []
  else (s.presentWrite (.memory line mask data)).conclude

/-- HOST_READ (R28 to R31). -/
def execHostRead (line : BitVec 28) (mask : BitVec 8) (s : State) : Host.Outcome State Fault Refusal :=
  s.hostRequest fun s => s.takeRead line.toNat mask

/-- HOST_WRITE (R28, R29, R34, R38). -/
def execHostWrite (line : BitVec 28) (mask : BitVec 64) (data : BitVec 512) (s : State) : Host.Outcome State Fault Refusal :=
  s.hostRequest fun s => s.takeWrite line.toNat mask data

/-! ### The ends of PORT's tenures -/

/-- The tenure in progress, if it is of the named work and RESET is not asserted; no other end of a tenure can come
(R17, log 5). -/
def State.ending (s : State) (f : Work → Bool) : Option Tenure :=
  if s.resetAsserted then none else s.arbiter.tenure.filter fun t => f t.work

/-- The response code of a read (R32). -/
def readCode (reports : List WordReport) : ResponseCode := if anyLost reports then .dataError else .okay

/-- A host read's tenure ends (R32, R33). -/
def State.endHostRead (s : State) (t : Tenure) : State :=
  t.reports.foldl (State.handReadWord t.line)
    ((s.freeChannel.respond (readCode t.reports) (deliveredWords t.reports)).hold .idle)

/-- HOST_READ_END (R32, R33). -/
def execHostReadEnd (s : State) : Host.Outcome State Fault Refusal :=
  match s.ending (· == .hostRead) with
  | some t => .next (s.endHostRead t).conclude
  | none => .next s

/-- A drain's tenure ends (R36, R37): the entry leaves, its words are handed on, register entries at the head take
effect, a held write is accepted. -/
def State.endDrain (s : State) (t : Tenure) : State :=
  ((t.reports.foldl (State.handDrainWord t.line) (s.freeChannel.setBuffer s.port.buffer.tail)).deliverHeads).acceptHeld

/-- DRAIN_END (R36 to R38, R41). -/
def execDrainEnd (s : State) : Host.Outcome State Fault Refusal :=
  match s.ending (· == .drain) with
  | some t => .next (s.endDrain t).conclude
  | none => .next s

/-! ### Register writes -/

/-- START: a CTRL write whose START bit is set (R109, R111, R115, log 12). -/
def execStart (value : BitVec 32) (s : State) : Host.Outcome State Fault Refusal :=
  s.hostRequest fun s => s.postRegister .ctrl (value ||| 1#32)

/-- QUIESCE: a CTRL write whose QUIESCE bit is set (R109, R116, log 12). -/
def execQuiesce (value : BitVec 32) (s : State) : Host.Outcome State Fault Refusal :=
  s.hostRequest fun s => s.postRegister .ctrl (value ||| 2#32)

/-- ENGINE_RESET: a CTRL write whose ENGINE_RESET bit is set (R109, R124, log 12). -/
def execEngineReset (value : BitVec 32) (s : State) : Host.Outcome State Fault Refusal :=
  s.hostRequest fun s => s.postRegister .ctrl (value ||| 4#32)

/-- ENABLE_BITS: a CTRL write (R109, log 12). -/
def execEnableBits (value : BitVec 32) (s : State) : Host.Outcome State Fault Refusal :=
  s.hostRequest fun s => s.postRegister .ctrl value

/-- SQ_TAIL: a write of SQ_TAIL (R41, R121). -/
def execSqTail (value : BitVec 32) (s : State) : Host.Outcome State Fault Refusal :=
  s.hostRequest fun s => s.postRegister .sqTail value

/-- CQ_HEAD: a write of CQ_HEAD (R40, R120, R121). -/
def execCqHead (value : BitVec 32) (s : State) : Host.Outcome State Fault Refusal :=
  s.hostRequest fun s => s.acceptCqHead value

/-- EQ_HEAD: a write of EQ_HEAD (R40, R120, R121). -/
def execEqHead (value : BitVec 32) (s : State) : Host.Outcome State Fault Refusal :=
  s.hostRequest fun s => s.acceptEqHead value

/-- ANCHOR: a write of ANCHOR (R40, R121). -/
def execAnchor (value : BitVec 32) (s : State) : Host.Outcome State Fault Refusal :=
  s.hostRequest fun s => s.acceptAnchorWrite value

/-- FAULT_INFO_CLEAR: a write of FAULT_INFO whose clear bit is set (R40, R176, log 12). -/
def execFaultInfoClear (value : BitVec 32) (s : State) : Host.Outcome State Fault Refusal :=
  s.hostRequest fun s => s.acceptFaultInfo (value ||| 0x80000000#32)

/-- REGISTER_WRITE_OTHER: a register write by offset; at STAT, FAULT_ADDR and unnamed offsets it changes nothing (R40,
R182, log 12). -/
def execRegisterWriteOther (offset : Nat) (value : BitVec 32) (s : State) : Host.Outcome State Fault Refusal :=
  s.hostRequest fun s => s.writeRegister offset value

end Sys2Proof.Machine
end

