-- ==== Sys2Proof/Machine/Resets.lean ====
section
/-!
DEFINITION. The meanings of DEVICE_RESET and DEVICE_RESET_RELEASE (R1, R4) and of DISTURBANCE (R5).
-/

namespace Sys2Proof.Machine

/-- Memory after a device reset: a power-on makes every word arbitrary again, the RESET pin writes nothing (R4). -/
def Memory.afterReset (m : Memory) (powerOn : Bool) : Memory := if powerOn then ⟨m.epoch + 1, []⟩ else m

/-- DEVICE_RESET: every state takes its device-reset value and the part stays in reset (R1, R4, R18, R27, R42, R47, R62,
R87, R99, R107, R127, R143, R172, R177). -/
def execDeviceReset (powerOn : Bool) (s : State) : Host.Outcome State Fault Refusal :=
  .next ((State.reset.withMemory (s.memory.afterReset powerOn)).withPending s.pending)

/-- The straps are sampled: T, S and U are fixed, and the Spare Pool holds S FREE spares (R1, R48). -/
def State.sampleStraps (s : State) (size : BitVec 3) (spare : BitVec 2) : State :=
  let straps : Straps := ⟨size, spare⟩
  ((s.withStraps straps).withTables { s.tables with spares := List.replicate straps.spareFrames .free }).withReset false

/-- DEVICE_RESET_RELEASE: the straps are sampled and the part begins to act (R1). Without a reset to release nothing
happens (log 5). -/
def execDeviceResetRelease (size : BitVec 3) (spare : BitVec 2) (s : State) : Host.Outcome State Fault Refusal :=
  .next (if s.resetAsserted then s.sampleStraps size spare else s)

/-- DISTURBANCE: the memory changes one stored word, in any state of the part (R5). A word that is not installed does
not exist (log 15). -/
def execDisturbance (frame : BitVec 22) (line : Fin 64) (word : Fin 8) (change : Disturbance) (s : State) :
    Host.Outcome State Fault Refusal :=
  if frame.toNat < s.installedFrames then
    let key := wordKey (frame.toNat * 64 + line.val) word.val
    .next (s.withMemory (s.memory.write key (disturbWord (s.memory.read key) change)))
  else .fault .noSuchWord

end Sys2Proof.Machine
end

