-- ==== Sys2Proof/Machine/TenureEnds.lean ====
section
/-!
DEFINITION. The meanings of the ends of the engine's tenures: ANCHOR_READ_END (R112), FETCH_END (R130), RING_POST_END
(R119), COPY_STEP_END (R76), SLOT_TENURE_END (R139). A tenure whose requester was reset or aborted since its grant ends
with its reports discarded (R18, R125).
-/

namespace Sys2Proof.Machine

/-- A tenure of the engine's ends: the channel is free, and unless its reports are discarded its requester takes them
(R17, R18); then the arbiter chooses (R22). No such tenure in progress: nothing happens (log 5). -/
def State.endTenure (s : State) (f : Work → Bool) (take : Tenure → State → State) : Host.Outcome State Fault Refusal :=
  match s.ending f with
  | some t => .next (if t.discarded then s.freeChannel.conclude else (take t s.freeChannel).conclude)
  | none => .next s

/-- ANCHOR_READ_END (R112 to R114, R178). -/
def execAnchorReadEnd (s : State) : Host.Outcome State Fault Refusal :=
  s.endTenure (· == .anchorRead) fun t s => s.endAnchorRead t.line t.reports

/-- FETCH_END (R130 to R135, R179). -/
def execFetchEnd (s : State) : Host.Outcome State Fault Refusal :=
  s.endTenure (· == .fetch) fun t s => s.endFetch t.line t.reports

/-- RING_POST_END: a post was settled at its grant; its end only leaves RING free (R119). -/
def execRingPostEnd (s : State) : Host.Outcome State Fault Refusal :=
  s.endTenure (fun w => w == .completionPost || w == .eventPost) fun _ s => s

/-- The migration takes the reports of its Copy Step (R76). -/
def State.takeCopyStep (t : Tenure) (s : State) : State :=
  match s.tables.migration with
  | some m => s.endCopyStep m t.line t.reports
  | none => s

/-- COPY_STEP_END (R76 to R79). -/
def execCopyStepEnd (s : State) : Host.Outcome State Fault Refusal :=
  s.endTenure (· == .copyStep) State.takeCopyStep

/-- The work is a slot's. -/
def Work.slot? : Work → Option Nat
  | .slotStep k => some k
  | .hostRead | .drain | .anchorRead | .fetch | .completionPost | .eventPost | .copyStep | .patrolStep => none

/-- The slot takes the reports of its tenure (R139). -/
def State.takeSlotTenure (t : Tenure) (s : State) : State :=
  match t.work.slot? with
  | some k =>
    match s.slotAt k with
    | some sl => s.endSlotTenure k sl t.line t.reports
    | none => s
  | none => s

/-- SLOT_TENURE_END (R133, R139, R140, R146). -/
def execSlotTenureEnd (s : State) : Host.Outcome State Fault Refusal :=
  s.endTenure (·.slot?.isSome) State.takeSlotTenure

end Sys2Proof.Machine
end

