-- ==== Sys2Proof/Machine/PatrolUnit.lean ====
section
/-!
DEFINITION. The Patrol Unit (spec 06, R100 to R104) and the meanings of PATROL_EXPIRY and PATROL_TENURE_END.
-/

namespace Sys2Proof.Machine

/-- The patrol is active: enabled, and the engine RUNNING, QUIESCING or QUIESCED (R100). -/
def State.patrolActive (s : State) : Bool := s.patrol.enabled && s.engine.state.posts

/-- The first host line at or above a byte address. -/
def lineAtOrAbove (address : Nat) : Nat := (address + 63) / 64

/-- The lines at which a region's coverage begins and ends. -/
def Region.edges (r : Region) : List Nat := [lineAtOrAbove r.base, lineAtOrAbove (r.base + 2 ^ r.exponent)]

/-- Every line at which the attributes may change (R43, R44). -/
def Tables.edges (t : Tables) : List Nat := t.regions.flatMap fun p => (p.toList).flatMap Region.edges

/-- The least edge above a line, if there is one. -/
def nextEdge (edges : List Nat) (line : Nat) : Option Nat := (edges.filter (fun e => decide (line < e))).min?

/-- The patrol's skip (R102): from a line to the first one with PATROL that is not past the last host line. It moves
from edge to edge, since the attributes are the same between two edges (log 20). -/
def Tables.skip (t : Tables) (hostLines : Nat) : Nat → Nat → Option Nat
  | 0, _ => none
  | n + 1, line =>
    if hostLines ≤ line then none
    else if (t.attributesOfLine line).patrol then some line
    else
      match nextEdge t.edges line with
      | some e => t.skip hostLines n e
      | none => none

/-- The line the patrol reads next: the first line with PATROL from the cursor on (R102). -/
def State.nextPatrolLine (s : State) : Option Nat :=
  s.tables.skip s.straps.hostLines (s.tables.edges.length + 1) s.patrol.cursor

/-- A pass ends: PATROL_PASS is offered, the Suspect Table decays, the cursor becomes 0 (R104). -/
def State.endPass (s : State) : State :=
  let s := s.offer { kind := .patrolPass, source := .patrol }
  let s := s.withTables s.tables.decay
  s.withPatrol { s.patrol with cursor := 0 }

/-- An expiry of the timer with the patrol IDLE: a request for the next PATROL line, its kind settled by the same
lookup, or the end of the pass (R102). -/
def State.expire (s : State) : State :=
  match s.nextPatrolLine with
  | some line =>
    s.withPatrol { s.patrol with
      cursor := line, phase := .waiting line (s.tables.attributesOfLine line).repair }
  | none => s.endPass

/-- PATROL_EXPIRY (R101, R102). No expiry comes while the patrol is inactive (log 5); one that finds the patrol WAITING
or IN_TENURE is absorbed. -/
def execPatrolExpiry (s : State) : Host.Outcome State Fault Refusal :=
  .next (if s.resetAsserted = false ∧ s.patrolActive ∧ s.patrol.phase = .idle then s.expire.conclude else s)

/-- The patrol moves on after its tenure (R103): a disowned tenure moves no cursor and ends no pass. -/
def State.patrolMovesOn (s : State) (line : Nat) : State :=
  if s.patrol.disowned then s.withPatrol { s.patrol with phase := .idle, disowned := false }
  else if line + 1 < s.straps.hostLines then s.withPatrol { s.patrol with phase := .idle, cursor := line + 1 }
  else (s.withPatrol { s.patrol with phase := .idle }).endPass

/-- The patrol takes the reports of its tenure (R103). -/
def State.takePatrolTenure (t : Tenure) (s : State) : State :=
  (s.handWords .patrol none t.line t.reports).patrolMovesOn t.line

/-- PATROL_TENURE_END (R103, R104). -/
def execPatrolTenureEnd (s : State) : Host.Outcome State Fault Refusal :=
  s.endTenure (· == .patrolStep) State.takePatrolTenure

end Sys2Proof.Machine
end

