-- ==== Sys2Proof/Machine/ServiceCommands.lean ====
section
/-!
DEFINITION. The meanings of software's thirteen commands as commands of their own (spec 09). Each presents one record to
admission, just as the end of a fetch does (R130, R131): it is judged, and refused, carried out as ABORT, or joined to the
pending list, whose head is judged for issue in the same step (R135). From there FETCH_END and these commands are one.
-/

namespace Sys2Proof.Machine

/-- Admission can take a record: RESET is not asserted, the engine issues commands, and the places and the live count
that R129 keeps for a fetched record are there (log 7). -/
def State.admits (s : State) : Bool :=
  !s.resetAsserted && s.engine.state.issues && decide (s.admission.pendingList.length < 16)
    && decide (s.liveCount < 32) && !s.fetchInTenure

/-- A record is presented: taken if admission can take it, else it stays with software and nothing changes (log 7). -/
def State.presentRecord (s : State) (tag : Tag) (c : Command) : Host.Outcome State Fault Refusal :=
  .next (if s.admits then (s.takeRecord ⟨tag, c.kindCode, some c⟩).conclude else s)

/-- SCRUB (R148, R149). -/
def execScrub (tag : Tag) (first length : BitVec 32) (poison : Bool) (s : State) : Host.Outcome State Fault Refusal :=
  s.presentRecord tag (.slot (.scrub first.toNat length.toNat poison))

/-- VERIFY (R150). -/
def execVerify (tag : Tag) (first length : BitVec 32) (s : State) : Host.Outcome State Fault Refusal :=
  s.presentRecord tag (.slot (.verify first.toNat length.toNat))

/-- FILL (R151, R152). -/
def execFill (tag : Tag) (first length : BitVec 32) (pattern : DataWord) (s : State) : Host.Outcome State Fault Refusal :=
  s.presentRecord tag (.slot (.fill first.toNat length.toNat pattern))

/-- COPY (R153 to R157). -/
def execCopy (tag : Tag) (source destination length : BitVec 32) (s : State) : Host.Outcome State Fault Refusal :=
  s.presentRecord tag (.slot (.copy source.toNat destination.toNat length.toNat))

/-- RETIRE (R67, R158). -/
def execRetire (tag : Tag) (frame : BitVec 32) (s : State) : Host.Outcome State Fault Refusal :=
  s.presentRecord tag (.retire frame.toNat)

/-- INSTALL (R56, R57, R159). -/
def execInstall (tag : Tag) (frame : BitVec 32) (spare : BitVec 16) (s : State) : Host.Outcome State Fault Refusal :=
  s.presentRecord tag (.install frame.toNat spare.toNat)

/-- WITHDRAW_SPARE (R58, R160). -/
def execWithdrawSpare (tag : Tag) (spare : BitVec 16) (s : State) : Host.Outcome State Fault Refusal :=
  s.presentRecord tag (.withdrawSpare spare.toNat)

/-- QUERY (R60, R161). -/
def execQuery (tag : Tag) (frame : BitVec 32) (s : State) : Host.Outcome State Fault Refusal :=
  s.presentRecord tag (.query frame.toNat)

/-- CLEAR_SUSPECT (R98, R162). -/
def execClearSuspect (tag : Tag) (frame : BitVec 32) (s : State) : Host.Outcome State Fault Refusal :=
  s.presentRecord tag (.clearSuspect frame.toNat)

/-- SET_REGION (R46, R163). -/
def execSetRegion (tag : Tag) (index : BitVec 8) (valid : Bool) (base : BitVec 64) (exponent : BitVec 8)
    (attributes : BitVec 4) (s : State) : Host.Outcome State Fault Refusal :=
  s.presentRecord tag (.setRegion index.toNat valid base.toNat exponent.toNat (attributesOfBits attributes))

/-- SET_PATROL (R105, R164). -/
def execSetPatrol (tag : Tag) (enable : Bool) (interval : BitVec 16) (restart : Bool) (s : State) :
    Host.Outcome State Fault Refusal :=
  s.presentRecord tag (.setPatrol enable interval restart)

/-- FENCE (R137, R165). -/
def execFence (tag : Tag) (s : State) : Host.Outcome State Fault Refusal := s.presentRecord tag .fence

/-- ABORT (R132, R133, R166). -/
def execAbort (tag : Tag) (target : Tag) (s : State) : Host.Outcome State Fault Refusal :=
  s.presentRecord tag (.abort target)

end Sys2Proof.Machine
end

