-- ==== Sys2Proof/Machine/Dispatch.lean ====
section
/-!
DEFINITION. One arm per command, each one direct call of that command's meaning.
-/

namespace Sys2Proof.Machine

def exec (i : Instr) (s : State) : Host.Outcome State Fault Refusal :=
  match i with
  | .deviceReset powerOn => Sys2Proof.Machine.execDeviceReset powerOn s
  | .deviceResetRelease size spare => Sys2Proof.Machine.execDeviceResetRelease size spare s
  | .disturbance frame line word change => Sys2Proof.Machine.execDisturbance frame line word change s
  | .hostRead line mask => Sys2Proof.Machine.execHostRead line mask s
  | .hostWrite line mask data => Sys2Proof.Machine.execHostWrite line mask data s
  | .hostReadEnd => Sys2Proof.Machine.execHostReadEnd s
  | .drainEnd => Sys2Proof.Machine.execDrainEnd s
  | .start value => Sys2Proof.Machine.execStart value s
  | .quiesce value => Sys2Proof.Machine.execQuiesce value s
  | .engineReset value => Sys2Proof.Machine.execEngineReset value s
  | .enableBits value => Sys2Proof.Machine.execEnableBits value s
  | .sqTail value => Sys2Proof.Machine.execSqTail value s
  | .cqHead value => Sys2Proof.Machine.execCqHead value s
  | .eqHead value => Sys2Proof.Machine.execEqHead value s
  | .anchor value => Sys2Proof.Machine.execAnchor value s
  | .faultInfoClear value => Sys2Proof.Machine.execFaultInfoClear value s
  | .registerWriteOther offset value => Sys2Proof.Machine.execRegisterWriteOther offset value s
  | .anchorReadEnd => Sys2Proof.Machine.execAnchorReadEnd s
  | .fetchEnd => Sys2Proof.Machine.execFetchEnd s
  | .ringPostEnd => Sys2Proof.Machine.execRingPostEnd s
  | .copyStepEnd => Sys2Proof.Machine.execCopyStepEnd s
  | .slotTenureEnd => Sys2Proof.Machine.execSlotTenureEnd s
  | .patrolTenureEnd => Sys2Proof.Machine.execPatrolTenureEnd s
  | .patrolExpiry => Sys2Proof.Machine.execPatrolExpiry s
  | .scrub tag first length poison => Sys2Proof.Machine.execScrub tag first length poison s
  | .verify tag first length => Sys2Proof.Machine.execVerify tag first length s
  | .fill tag first length pattern => Sys2Proof.Machine.execFill tag first length pattern s
  | .copy tag source destination length => Sys2Proof.Machine.execCopy tag source destination length s
  | .retire tag frame => Sys2Proof.Machine.execRetire tag frame s
  | .install tag frame spare => Sys2Proof.Machine.execInstall tag frame spare s
  | .withdrawSpare tag spare => Sys2Proof.Machine.execWithdrawSpare tag spare s
  | .query tag frame => Sys2Proof.Machine.execQuery tag frame s
  | .clearSuspect tag frame => Sys2Proof.Machine.execClearSuspect tag frame s
  | .setRegion tag index valid base exponent attributes => Sys2Proof.Machine.execSetRegion tag index valid base exponent attributes s
  | .setPatrol tag enable interval restart => Sys2Proof.Machine.execSetPatrol tag enable interval restart s
  | .fence tag => Sys2Proof.Machine.execFence tag s
  | .abort tag target => Sys2Proof.Machine.execAbort tag target s

end Sys2Proof.Machine
end

