-- ==== Sys2Proof/Safety.lean ====
section
/-!
DEFINITION. What counts as a good state and a safe step of the AP3160: the bounds and laws the spec says hold at every
moment, in the terms the statements use.
-/

namespace Sys2Proof.Machine

/-- A step that goes on: no fault and no refusal. -/
def Continues (o : Host.Outcome State Fault Refusal) : Prop := ∃ t, o = .next t

/-- Memory is in its one canonical form (log 4). -/
abbrev State.MemoryCanonical (s : State) : Prop := s.memory.wf = true

/-- The tables have the sizes the spec gives them: 8 regions (R43), 32 suspect places (R89), 4 slots (R138), S spares
(R48). -/
structure State.Shaped (s : State) : Prop where
  regions : s.tables.regions.length = 8
  suspects : s.tables.suspects.length = 32
  slots : s.admission.slots.length = 4
  spares : s.tables.spares.length = s.straps.spareFrames

/-- The queues stay within their places: Write Post Buffer 8 (R35), Retire Queue 8 (R66), event list 8 (R169), pending
list 16 (R134); a write is held only while every place of the buffer is taken (R38). -/
structure State.QueuesBounded (s : State) : Prop where
  buffer : s.port.buffer.length ≤ 8
  retire : s.tables.retireQueue.length ≤ 8
  events : s.news.events.length ≤ 8
  pending : s.admission.pendingList.length + (if s.fetchInTenure then 1 else 0) ≤ 16

/-- The counters stay in their ranges: guard count 0..8 (R24), last slot 0..3 (R23), eviction pointer 0..31 (R89). -/
structure State.CountersBounded (s : State) : Prop where
  guard : s.arbiter.guard ≤ 8
  lastSlot : s.arbiter.lastSlot ≤ 3
  pointer : s.tables.evictionPointer < 32

/-- The live count never exceeds 32 (R128); a fetch in tenure has its place kept. -/
abbrev State.LiveBounded (s : State) : Prop := s.liveCount + (if s.fetchInTenure then 1 else 0) ≤ 32

/-- The head of the Write Post Buffer is never a register entry (R31, R41). -/
def Port.headIsMemory (p : Port) : Prop :=
  match p.buffer with
  | .register _ _ :: _ => False
  | .memory _ _ _ :: _ | [] => True

/-- The spares a Remap Table entry names, as current or as target (R50). -/
def RemapState.spares : RemapState → List Nat
  | .active c => [c]
  | .migrating none t _ => [t]
  | .migrating (some c) t _ => [c, t]

/-- The current spare of an entry (R50). -/
def RemapState.current? : RemapState → Option Nat
  | .active c => some c
  | .migrating c _ _ => c

/-- The target spare of an entry (R50). -/
def RemapState.target? : RemapState → Option Nat
  | .active _ => none
  | .migrating _ t _ => some t

/-- The laws of R51: one entry per frame, no spare named twice, ASSIGNED exactly the current spares, TARGET exactly the
target of the MIGRATING entry, and a MIGRATING entry exactly while the Migration Unit is COPYING, for the record's frame,
target and old spare. -/
structure Tables.Consistent (t : Tables) : Prop where
  frames : (t.remap.map (·.frame)).Nodup
  named : (t.remap.flatMap (·.state.spares)).Nodup
  assigned : ∀ k, t.spares[k]? = some .assigned ↔ ∃ e ∈ t.remap, e.state.current? = some k
  target : ∀ k, t.spares[k]? = some .target ↔ ∃ e ∈ t.remap, e.state.target? = some k
  unit : ∀ m, t.migration = some m →
    ∃ cursor, cursor < 64 ∧ (⟨m.frame, .migrating m.old m.target cursor⟩ : RemapEntry) ∈ t.remap
  entry : ∀ e ∈ t.remap, e.state.isMigrating = true → ∃ m, t.migration = some m ∧ m.frame = e.frame

/-- ATTN stands at the level of its inputs (R126). -/
abbrev State.AttnFollows (s : State) : Prop := s.attn = s.attnLevel

/-- The arbiter leaves no request waiting on a free channel (R22). -/
abbrev State.ChannelUsed (s : State) : Prop := s.arbiter.tenure = none → s.waiting = []

/-- The Suspect Table holds at most one entry per host frame (R89). -/
abbrev Tables.SuspectsDistinct (t : Tables) : Prop := ((t.suspects.flatMap (·.toList)).map (·.frame)).Nodup

/-- The laws of a retirement in progress: those of R51, at most one request per frame and none for the migrating one
(R66), requests wait only behind a migration (R72), no migration in OFF and STARTING (R108), a Suspect Table entry is
QUEUED or MIGRATING exactly as its frame stands (R69, R89), an anchor read that will be judged stands only in STARTING
(R111), and no entry while RESET is asserted (R62). -/
structure State.RetirementLaws (s : State) : Prop where
  tables : s.tables.Consistent
  suspects : s.tables.SuspectsDistinct
  queueFrames : (s.tables.retireQueue.map (·.frame)).Nodup
  queueNotMigrating : ∀ m, s.tables.migration = some m → ∀ r ∈ s.tables.retireQueue, r.frame ≠ m.frame
  queueServed : s.tables.migration = none → s.tables.retireQueue = []
  idleWhenOff : s.engine.state.retires = false → s.tables.migration = none
  queuedEntries : ∀ e ∈ s.tables.suspects.flatMap (·.toList),
    e.retire = .queued ↔ ∃ r ∈ s.tables.retireQueue, r.frame = e.frame
  migratingEntries : ∀ e ∈ s.tables.suspects.flatMap (·.toList),
    e.retire = .migrating ↔ ∃ m, s.tables.migration = some m ∧ m.frame = e.frame
  anchorRead : ∀ t, s.arbiter.tenure = some t → t.work = .anchorRead → t.discarded = false → s.engine.state = .starting
  clearedInReset : s.resetAsserted = true → s.tables.remap = []

/-- The laws of R128: no two accepted live commands carry one tag, and at most 32 commands are live. -/
structure State.LiveLaws (s : State) : Prop where
  tags : s.tagSet.Nodup
  bounded : s.LiveBounded

/-- No two occupied slots conflict (R136). -/
def State.SlotsCompatible (s : State) : Prop :=
  ∀ i j a b, i ≠ j → s.slotAt i = some a → s.slotAt j = some b → a.command.conflicts b.command = false

/-- The requester has a request to present at a choice, the channel being free (R20, R21, R31). -/
def State.ready (s : State) : Requester → Bool
  | .port => s.port.work.isSome
  | .migration => s.tables.migration.any fun m => m.step == .waiting
  | .ring => s.ringWork.isSome
  | .slot k => s.slotWaiting k
  | .patrol => s.patrol.isWaiting

/-- `t` is `s` but for what accounting may change: the news, the tail of the backlog, and the tables without the regions
and the default attributes. -/
structure Accounted (s t : State) : Prop where
  resetAsserted : t.resetAsserted = s.resetAsserted
  straps : t.straps = s.straps
  attn : t.attn = s.attn
  memory : t.memory = s.memory
  arbiter : t.arbiter = s.arbiter
  port : t.port = s.port
  patrol : t.patrol = s.patrol
  engine : t.engine = s.engine
  pending : t.pending = s.pending
  pendingList : t.admission.pendingList = s.admission.pendingList
  slots : t.admission.slots = s.admission.slots
  backlog : ∃ completions, t.admission.backlog = s.admission.backlog ++ completions
  regions : t.tables.regions = s.tables.regions
  defaults : t.tables.defaults = s.tables.defaults

/-- What handing on one finding does, in the order of R90: its event is offered, its error is captured, and, where the
Suspect Table counts it, the detection is entered as CORRECTED (`some false`) or UNCORRECTABLE (`some true`). -/
def State.handOn (s : State) (event : EventRecord) (capture : CaptureKind) (counted : Option Bool) : State :=
  let t := (s.offer event).present capture event.source event.line event.word
  match counted with
  | none => t
  | some uncorrectable => t.enterDetection event.line event.word uncorrectable

/-- What one word hands on at the end of an anchor read, a fetch, a patrol tenure or a slot's tenure: the one table of
R103, R112, R130 and R146. -/
def handedOn (source : Source) (tag : Option Tag) (line : Nat) (s : State) (r : WordReport) : State :=
  match r.decoded with
  | some (.corrected b, _) =>
    s.handOn { kind := .corrected, source, tag, line, word := r.index, bit := b.val } (.corrected b) (some false)
  | some (.uncorrectable, _) =>
    s.handOn { kind := .uncorrectable, source, tag, line, word := r.index } .uncorrectable (some true)
  | some (.poisoned, _) | some (.good, _) | none => s

/-- The host frames the Remap Table names are host frames, and the pool holds S spares (R48, R50). -/
structure State.RemapInRange (s : State) : Prop where
  frames : ∀ e ∈ s.tables.remap, e.frame < s.straps.hostFrames
  spares : s.tables.spares.length = s.straps.spareFrames

/-- A ring lies in host memory and the part's index names one of its records (R113, R117). -/
def Ring.holds (r : Ring) (recordSize hostFrames index : Nat) : Prop :=
  r.base + 2 ^ r.exponent * recordSize ≤ hostFrames * 4096 ∧ index < 2 ^ r.exponent

/-- Every host line and host frame the part holds, and every one it will ask a tenure for, lies in host memory: what the
checks of R29, R111, R113 and R131 let in stays in range until the next device reset fixes U again (R1). -/
structure State.AddressesInRange (s : State) : Prop where
  remap : s.RemapInRange
  cursors : ∀ e ∈ s.tables.remap, ∀ current target cursor, e.state = .migrating current target cursor → cursor < 64
  queue : ∀ r ∈ s.tables.retireQueue, r.frame < s.straps.hostFrames
  migration : ∀ m, s.tables.migration = some m → m.frame < s.straps.hostFrames
  tenure : ∀ t, s.arbiter.tenure = some t → t.line < s.straps.hostLines
  heldRead : ∀ line mask, s.port.held = .readHeld line mask → line < s.straps.hostLines
  heldWrite : ∀ line mask data, s.port.held = .writeHeld (.memory line mask data) → line < s.straps.hostLines
  buffer : ∀ line mask data, .memory line mask data ∈ s.port.buffer → line < s.straps.hostLines
  pending : ∀ p ∈ s.admission.pendingList,
    p.command.fieldsOk s.straps.spareFrames = true ∧ p.command.addressesOk s.straps.hostFrames = true
  slots : ∀ k sl, s.slotAt k = some sl →
    sl.progress < sl.command.length ∧ (Command.slot sl.command).addressesOk s.straps.hostFrames = true
  anchor : ∀ line, s.engine.anchorRequest = some line → line < s.straps.hostLines
  rings : ∀ r, s.engine.rings = some r → r.sq.holds 64 s.straps.hostFrames r.fetch
    ∧ r.cq.holds 16 s.straps.hostFrames r.cqProducer ∧ r.eq.holds 32 s.straps.hostFrames r.eqProducer
  patrol : ∀ line repair, s.patrol.phase = .waiting line repair → line < s.straps.hostLines
  inReset : s.resetAsserted = true → s = (State.reset.withMemory s.memory).withPending s.pending

/-- Below the cursor of a migration the target line holds, word for word, what a Copy Step makes of the source line (spec
04, How the source and target relate below the cursor; no disturbance since). -/
def State.MirrorsBelowCursor (s : State) : Prop :=
  ∀ frame current target cursor, (⟨frame, .migrating current target cursor⟩ : RemapEntry) ∈ s.tables.remap →
    ∀ l < cursor, l < 64 → ∀ w < 8,
      s.memory.read (wordKey (s.spareFrame target * 64 + l) w)
        = (copiedWord (s.memory.read (wordKey (s.sourceLine (frame * 64 + l)) w))).1

/-- The reports of a read of whole words that all decode GOOD. -/
def goodReports (words : List DataWord) : List WordReport :=
  words.zipIdx.map fun (d, i) => ⟨i, some (.good, d), .unchanged⟩

/-- A number placed in a 64-bit word of a record that software writes (11.1). -/
def recordWordOf (fields : List (Nat × Nat)) : DataWord :=
  BitVec.ofNat 64 ((fields.map fun f => f.1 * 2 ^ f.2).sum)

/-- The four attribute bits of 11.1 as a number. -/
def Attributes.code (a : Attributes) : Nat :=
  oneBit a.writeProtect + 2 * oneBit a.patrol + 4 * oneBit a.repair + 8 * oneBit a.autoRetire

/-- The 64-byte record software writes for a command, by the byte positions of 11.3: each word is a list of fields with
their lowest bits; every byte the kind does not use is 0. -/
def Command.record (tag : Tag) (c : Command) : List DataWord :=
  let head (flags : Nat) : DataWord := recordWordOf [(tag.toNat, 0), (c.kindCode.toNat, 16), (flags, 24)]
  match c with
  | .slot (.scrub first length poison) =>
    [head (oneBit poison), recordWordOf [(first, 0)], recordWordOf [(length, 0)], 0, 0, 0, 0, 0]
  | .slot (.verify first length) => [head 0, recordWordOf [(first, 0)], recordWordOf [(length, 0)], 0, 0, 0, 0, 0]
  | .slot (.fill first length pattern) =>
    [head 0, recordWordOf [(first, 0)], recordWordOf [(length, 0)], 0, 0, 0, pattern, 0]
  | .slot (.copy source destination length) =>
    [head 0, recordWordOf [(source, 0), (destination, 32)], recordWordOf [(length, 0)], 0, 0, 0, 0, 0]
  | .retire frame => [head 0, 0, recordWordOf [(frame, 32)], 0, 0, 0, 0, 0]
  | .install frame spare => [head 0, 0, recordWordOf [(frame, 32)], recordWordOf [(spare, 0)], 0, 0, 0, 0]
  | .withdrawSpare spare => [head 0, 0, 0, recordWordOf [(spare, 0)], 0, 0, 0, 0]
  | .query frame => [head 0, 0, recordWordOf [(frame, 32)], 0, 0, 0, 0, 0]
  | .clearSuspect frame => [head 0, 0, recordWordOf [(frame, 32)], 0, 0, 0, 0, 0]
  | .setRegion index valid base exponent attributes =>
    [head (oneBit valid), 0, 0, recordWordOf [(index, 48), (exponent, 56)], recordWordOf [(attributes.code, 0)],
      recordWordOf [(base, 0)], 0, 0]
  | .setPatrol enable interval restart =>
    [head (oneBit enable + 2 * oneBit restart), 0, 0, recordWordOf [(interval.toNat, 32)], 0, 0, 0, 0]
  | .fence => [head 0, 0, 0, 0, 0, 0, 0, 0]
  | .abort target => [head 0, 0, 0, recordWordOf [(target.toNat, 16)], 0, 0, 0, 0]

/-- The bits of a command record that 11.3 gives a field in, word by word, for a record of the kind: the tag and the kind
always, and the fields in whose "Used by" the kind stands. -/
def usedBits (kind : BitVec 4) : List DataWord :=
  let lines : DataWord := 0xFFFFFFFF
  let frame : DataWord := 0xFFFFFFFF00000000
  match kind with
  | 1#4 => [0x10FFFFF, lines, lines, 0, 0, 0, 0, 0]
  | 2#4 => [0xFFFFF, lines, lines, 0, 0, 0, 0, 0]
  | 3#4 => [0xFFFFF, lines, lines, 0, 0, 0, 0xFFFFFFFFFFFFFFFF, 0]
  | 4#4 => [0xFFFFF, 0xFFFFFFFFFFFFFFFF, lines, 0, 0, 0, 0, 0]
  | 5#4 => [0xFFFFF, 0, frame, 0, 0, 0, 0, 0]
  | 6#4 => [0xFFFFF, 0, frame, 0xFFFF, 0, 0, 0, 0]
  | 7#4 => [0xFFFFF, 0, 0, 0xFFFF, 0, 0, 0, 0]
  | 8#4 => [0xFFFFF, 0, frame, 0, 0, 0, 0, 0]
  | 9#4 => [0xFFFFF, 0, frame, 0, 0, 0, 0, 0]
  | 10#4 => [0x10FFFFF, 0, 0, 0xFFFF000000000000, 0xF, 0xFFFFFFFFFFFFFFFF, 0, 0]
  | 11#4 => [0x30FFFFF, 0, 0, 0xFFFF00000000, 0, 0, 0, 0]
  | 13#4 => [0xFFFFF, 0, 0, 0xFFFF0000, 0, 0, 0, 0]
  | _ => [0xFFFFF, 0, 0, 0, 0, 0, 0, 0]

/-- The fields of a command fit the widths of 11.3. -/
def Command.fits : Command → Bool
  | .slot (.scrub first length _) => decide (first < 2 ^ 32) && decide (length < 2 ^ 32)
  | .slot (.verify first length) => decide (first < 2 ^ 32) && decide (length < 2 ^ 32)
  | .slot (.fill first length _) => decide (first < 2 ^ 32) && decide (length < 2 ^ 32)
  | .slot (.copy source destination length) =>
    decide (source < 2 ^ 32) && decide (destination < 2 ^ 32) && decide (length < 2 ^ 32)
  | .retire frame => decide (frame < 2 ^ 32)
  | .install frame spare => decide (frame < 2 ^ 32) && decide (spare < 2 ^ 16)
  | .withdrawSpare spare => decide (spare < 2 ^ 16)
  | .query frame => decide (frame < 2 ^ 32)
  | .clearSuspect frame => decide (frame < 2 ^ 32)
  | .setRegion index _ base exponent _ => decide (index < 2 ^ 8) && decide (base < 2 ^ 64) && decide (exponent < 2 ^ 8)
  | .setPatrol _ _ _ | .fence | .abort _ => true

end Sys2Proof.Machine
end

