-- ==== Sys2Proof/Certificates/Slice0/Obligations.lean ====
section
/-!
DEFINITION. The statements for the provers. A statement that gives a command's result as `u.conclude` says exactly what
the state is before the arbiter's grants of the happening (R22), the QUIESCED test (R116) and the ATTN level (R126); what
those do is stated in GrantsFollowOrderAndGuard, StepsKeepAttnLevel and the statements about `grant`. A group of the state
that a `with…` does not name is unchanged.
-/

open Sys2Proof Sys2Proof.Machine

/-! ### The queue and the commands as a whole -/

/-- A step runs the command at the front of the queue on the state with the queue's rest; on an empty queue the block
idles (both are how the model lets commands reach the part: logs 1 and 9). -/
def Obligations.StepRunsFrontCommand : Prop :=
  (∀ (c : Instr) (s : State), step (s.withPending (c :: s.pending)) = exec c s)
  ∧ ∀ s : State, s.pending = [] → step s = .next s

/-- Every command goes on and leaves the queue alone, but a DISTURBANCE of a frame that is not installed (log 15); only
a device reset and its release touch the RESET pin and the straps, so T, S and U hold until the next device reset (R1). -/
def Obligations.CommandsGoOnAndKeepStraps : Prop :=
  ∀ (c : Instr) (s : State),
    (∀ frame line word change, c = .disturbance frame line word change → frame.toNat < s.installedFrames) →
    ∃ t, exec c s = .next t ∧ t.pending = s.pending
      ∧ ((∀ p, c ≠ .deviceReset p) → (∀ a b, c ≠ .deviceResetRelease a b) →
          t.straps = s.straps ∧ t.resetAsserted = s.resetAsserted)

/-- A host request that comes while RESET is asserted (R1) or while the port holds a request (R28) is neither taken nor
answered; that it then leaves the state as it is, is the model's choice (log 5). In every other state the port takes it. -/
def Obligations.HostRequestsNotTaken : Prop :=
  (∀ s : State, s.hostTakes = true ↔ s.resetAsserted = false ∧ s.port.held = .idle)
  ∧ ∀ (c : Instr) (s : State), s.resetAsserted = true ∨ s.port.held ≠ .idle →
    ((∃ l m, c = .hostRead l m) ∨ (∃ l m d, c = .hostWrite l m d) ∨ (∃ v, c = .start v) ∨ (∃ v, c = .quiesce v)
      ∨ (∃ v, c = .engineReset v) ∨ (∃ v, c = .enableBits v) ∨ (∃ v, c = .sqTail v) ∨ (∃ v, c = .cqHead v)
      ∨ (∃ v, c = .eqHead v) ∨ (∃ v, c = .anchor v) ∨ (∃ v, c = .faultInfoClear v)
      ∨ (∃ o v, c = .registerWriteOther o v)) →
    exec c s = .next s

/-! ### Resets and disturbance -/

/-- The state of a device reset (with RESET still asserted: log 1) keeps every invariant stated below. -/
def Obligations.ResetKeepsTheInvariants : Prop :=
  State.reset.MemoryCanonical ∧ State.reset.Shaped ∧ State.reset.QueuesBounded ∧ State.reset.CountersBounded
    ∧ State.reset.LiveLaws ∧ State.reset.SlotsCompatible ∧ State.reset.RetirementLaws ∧ State.reset.AttnFollows
    ∧ State.reset.ChannelUsed ∧ State.reset.MirrorsBelowCursor ∧ State.reset.AddressesInRange
    ∧ State.reset.port.headIsMemory

/-- DEVICE_RESET from any state: every chapter's device-reset value, the registers of 11.6, memory kept by the RESET
pin and made arbitrary by a power-on (R4; the free value's next epoch, log 3). DEVICE_RESET_RELEASE samples the straps:
T doubles with each SIZE code up to 4, S is 0, 16, 32 or 64, U = T - S, and every spare is FREE (R1, R48). Without a
reset to release it changes nothing (log 5). -/
def Obligations.DeviceResetValues : Prop :=
  (∀ (powerOn : Bool) (s : State), ∃ t, exec (.deviceReset powerOn) s = .next t
    ∧ t.resetAsserted = true ∧ t.attn = false ∧ t.pending = s.pending
    ∧ t.memory = (if powerOn then ⟨s.memory.epoch + 1, []⟩ else s.memory)
    ∧ t.arbiter = ⟨none, 3, 0⟩ ∧ t.waiting = []
    ∧ t.port.held = .idle ∧ t.port.buffer = []
    ∧ t.tables.regions = List.replicate 8 none ∧ t.tables.defaults = ⟨false, false, false, false⟩
    ∧ t.tables.remap = [] ∧ t.tables.retireQueue = [] ∧ t.tables.migration = none
    ∧ t.tables.suspects = List.replicate 32 none ∧ t.tables.evictionPointer = 0
    ∧ t.patrol = ⟨false, 1000#16, 0, .idle, false⟩
    ∧ t.engine.state = .off ∧ t.engine.rings = none ∧ t.engine.threshold = 16 ∧ t.engine.reportCorrected = false
    ∧ t.admission = ⟨[], [none, none, none, none], []⟩ ∧ t.tagSet = [] ∧ t.liveCount = 0
    ∧ t.news = ⟨[], none, none⟩
    ∧ t.readRegister 0x00 = 0#32 ∧ t.readRegister 0x04 = 0x00020000#32 ∧ t.readRegister 0x08 = 0#32
    ∧ t.readRegister 0x0C = 0#32 ∧ t.readRegister 0x10 = 0#32 ∧ t.readRegister 0x14 = 0#32
    ∧ t.readRegister 0x18 = 0#32 ∧ t.readRegister 0x1C = 0#32)
  ∧ (∀ (size : BitVec 3) (spare : BitVec 2) (s : State),
    (s.resetAsserted = true → ∃ t, exec (.deviceResetRelease size spare) s = .next t
      ∧ t = ((s.withStraps ⟨size, spare⟩).withReset false).withTables { s.tables with spares := t.tables.spares }
      ∧ t.straps.physicalFrames = 262144 * 2 ^ min size.toNat 4
      ∧ t.straps.spareFrames = (if spare.toNat = 0 then 0 else 8 * 2 ^ spare.toNat)
      ∧ t.straps.hostFrames + t.straps.spareFrames = t.straps.physicalFrames
      ∧ t.straps.hostLines = t.straps.hostFrames * 64
      ∧ t.tables.spares = List.replicate t.straps.spareFrames .free)
    ∧ (s.resetAsserted = false → exec (.deviceResetRelease size spare) s = .next s))

/-- DISTURBANCE changes one stored word and nothing else, as R5's four changes say; it never makes a word CLEAN, never
moves a SINGLE word's bit and never reaches a POISON word. A frame that is not installed has no such word; while RESET is
asserted, and T is not sampled, the model takes every frame a strap could select to be there (log 15). -/
def Obligations.DisturbanceChangesOneWord : Prop :=
  (∀ s : State, s.installedFrames = if s.resetAsserted then 4194304 else s.straps.physicalFrames)
  ∧ ∀ (frame : BitVec 22) (line : Fin 64) (word : Fin 8) (change : Disturbance) (s : State),
    (frame.toNat < s.installedFrames → ∃ m, exec (.disturbance frame line word change) s = .next (s.withMemory m)
      ∧ (∀ l w : Nat, w < 8 → ¬(l = frame.toNat * 64 + line ∧ w = word) → m.read (wordKey l w) = s.memory.read (wordKey l w))
      ∧ (match s.memory.read (wordKey (frame.toNat * 64 + line) word), change with
          | .clean d, .toSingle b => m.read (wordKey (frame.toNat * 64 + line) word) = .single d b
          | .clean _, .toMulti d' => m.read (wordKey (frame.toNat * 64 + line) word) = .multi d'
          | .single _ _, .toMulti d' => m.read (wordKey (frame.toNat * 64 + line) word) = .multi d'
          | .multi _, .toMulti d' => m.read (wordKey (frame.toNat * 64 + line) word) = .multi d'
          | w, _ => m.read (wordKey (frame.toNat * 64 + line) word) = w))
    ∧ (s.installedFrames ≤ frame.toNat → exec (.disturbance frame line word change) s = .fault .noSuchWord)

/-! ### What tenures do to words (spec 01) -/

/-- A Line Write settles each word of the source line by its lanes and its old condition, writes the same result into
the target line where there is one, and touches no other word. Its reports: one for each word with a lane set, in index
order, with no decode for a whole word and the old word's decode for a merged one (R7, R10 to R13). -/
def Obligations.LineWriteSettlesEachWord : Prop :=
  (∀ (m : Memory) (source : Nat) (target : Option Nat) (ws : List WordWrite), ws.length = 8 → target ≠ some source →
    let m' := m.writeAll (lineWriteEffect m source target ws).writes
    (∀ i (h : i < ws.length),
      (ws[i].lanes = 0#8 → m'.read (wordKey source i) = m.read (wordKey source i)
        ∧ ∀ t, target = some t → m'.read (wordKey t i) = m.read (wordKey t i))
      ∧ (ws[i].lanes ≠ 0#8 → ∀ t, target = some t → m'.read (wordKey t i) = m'.read (wordKey source i))
      ∧ (ws[i].lanes = 0xFF#8 →
          m'.read (wordKey source i) = if ws[i].marker then .poison else .clean ws[i].data)
      ∧ (ws[i].lanes ≠ 0#8 → ws[i].lanes ≠ 0xFF#8 →
          match m.read (wordKey source i) with
          | .clean old | .single old _ => ∃ d, m'.read (wordKey source i) = .clean d
              ∧ ∀ b < 8, d.extractLsb' (8 * b) 8
                  = if ws[i].lanes.getLsbD b then ws[i].data.extractLsb' (8 * b) 8 else old.extractLsb' (8 * b) 8
          | .multi _ | .poison => m'.read (wordKey source i) = .poison))
    ∧ (∀ l w, w < 8 → l ≠ source → target ≠ some l → m'.read (wordKey l w) = m.read (wordKey l w)))
  ∧ (∀ (m : Memory) (source : Nat) (target : Option Nat) (ws : List WordWrite),
    (lineWriteEffect m source target ws).reports.map (·.index)
        = (List.range ws.length).filter (fun i => !((ws.getD i ⟨0#8, 0#64, false⟩).lanes == 0#8))
    ∧ ∀ r ∈ (lineWriteEffect m source target ws).reports, ∃ h : r.index < ws.length,
        (ws[r.index].lanes = 0xFF#8 → r.decoded = none
          ∧ r.written = if ws[r.index].marker then .poison else .clean)
        ∧ (ws[r.index].lanes ≠ 0xFF#8 → r.decoded = some (decodeWord (m.read (wordKey source r.index)))
          ∧ r.written = match m.read (wordKey source r.index) with
            | .clean _ | .single _ _ => .clean
            | .multi _ | .poison => .poison))

/-- A decode yields, for each condition of a word, the class, the delivered data and the bit position of R6's table. A Repair
Read decodes all 8 words and writes back by class, in place, and touches no other line (R14). -/
def Obligations.RepairReadMendsInPlace : Prop :=
  (∀ word : StoredWord, decodeWord word = match word with
    | .clean d => (.good, d)
    | .single d b => (.corrected b, d)
    | .multi d => (.uncorrectable, d)
    | .poison => (.poisoned, 0#64))
  ∧ ∀ (m : Memory) (line : Nat) (option : Bool),
    let m' := m.writeAll (repairReadEffect m line option).writes
    (∀ w < 8, match m.read (wordKey line w) with
      | .clean d => m'.read (wordKey line w) = .clean d
      | .single d _ => m'.read (wordKey line w) = .clean d
      | .multi d => m'.read (wordKey line w) = if option then .poison else .multi d
      | .poison => m'.read (wordKey line w) = .poison)
    ∧ (∀ l w, w < 8 → l ≠ line → m'.read (wordKey l w) = m.read (wordKey l w))
    ∧ (repairReadEffect m line option).reports = (List.range 8).map fun w =>
        ⟨w, some (decodeWord (m.read (wordKey line w))), match m.read (wordKey line w) with
          | .single _ _ => .clean
          | .multi _ => if option then .poison else .unchanged
          | .clean _ | .poison => .unchanged⟩

/-- A Copy Step writes the whole target line from the source's decodes and leaves the source and every other line as it
was (R15). -/
def Obligations.CopyStepWritesTheTarget : Prop :=
  ∀ (m : Memory) (source target : Nat), target ≠ source →
    let m' := m.writeAll (copyStepEffect m source target).writes
    (∀ w < 8, match m.read (wordKey source w) with
      | .clean d | .single d _ => m'.read (wordKey target w) = .clean d
      | .multi _ | .poison => m'.read (wordKey target w) = .poison)
    ∧ (∀ l w, w < 8 → l ≠ target → m'.read (wordKey l w) = m.read (wordKey l w))
    ∧ (copyStepEffect m source target).reports = (List.range 8).map fun w =>
        ⟨w, some (decodeWord (m.read (wordKey source w))), match m.read (wordKey source w) with
          | .clean _ | .single _ _ => .clean
          | .multi _ | .poison => .poison⟩

/-! ### Memory, routing and isolation -/

/-- INVARIANT. Memory keeps its one canonical form in every step. The form is the model's own (log 4): keys strictly
rising, so that equal memories are equal data. -/
def Obligations.StepsKeepMemoryCanonical : Prop :=
  (∀ s t : State, s.MemoryCanonical → step s = .next t → t.MemoryCanonical)
  ∧ ∀ s : State, s.MemoryCanonical ↔ s.memory.cells.Pairwise fun a b => a.1 < b.1

/-- Routing, by the frame's Remap Table entry: without one the line is its own; ACTIVE on spare k it is spare k's; MIGRATING
it is the current spare's, or its own without one, with a target line in the target spare. The same line within the frame
each time, spare k being physical frame U + k (R52). Reads reach the source line alone (R53); a Line Write reaches the target
line too exactly when the entry is MIGRATING and the line is below the cursor (R54); a Copy Step goes from source to target
(R55). So routing reaches the host frame's own physical frame or an ASSIGNED spare, and as a target only a TARGET spare:
never one that is FREE or FAILED (R25, R51, R52). -/
def Obligations.RoutingReachesNoIdleSpare : Prop :=
  (∀ (s : State) (line : Nat), s.tables.Consistent → s.RemapInRange → line < s.straps.hostLines →
    ((s.sourceLine line = line ∧ s.tables.entryOf (line / 64) = none)
      ∨ (s.sourceLine line = line ∧ ∃ t c, s.tables.entryOf (line / 64) = some ⟨line / 64, .migrating none t c⟩)
      ∨ (∃ k, s.tables.spares[k]? = some .assigned
          ∧ s.sourceLine line = (s.straps.hostFrames + k) * 64 + line % 64))
    ∧ (∀ p, s.targetLine line = some p →
        ∃ k, s.tables.spares[k]? = some .target ∧ p = (s.straps.hostFrames + k) * 64 + line % 64))
  ∧ (∀ (s : State) (line : Nat), s.tables.Consistent →
    let inSpare := fun (k : Nat) => (s.straps.hostFrames + k) * 64 + line % 64
    ((∀ e ∈ s.tables.remap, e.frame ≠ line / 64) →
      s.sourceLine line = line ∧ s.targetLine line = none ∧ s.dualLine line = none)
    ∧ (∀ k, ⟨line / 64, .active k⟩ ∈ s.tables.remap →
      s.sourceLine line = inSpare k ∧ s.targetLine line = none ∧ s.dualLine line = none)
    ∧ (∀ current target cursor, ⟨line / 64, .migrating current target cursor⟩ ∈ s.tables.remap →
      s.sourceLine line = (match current with
        | some k => inSpare k
        | none => line)
      ∧ s.targetLine line = some (inSpare target)
      ∧ s.dualLine line = if line % 64 < cursor then some (inSpare target) else none)
    ∧ (∀ frame, (∀ e ∈ s.tables.remap, e.frame ≠ frame) → s.tables.entryOf frame = none)
    ∧ (∀ e ∈ s.tables.remap, s.tables.entryOf e.frame = some e)
    ∧ (∀ frame, s.tables.migratingFrame = some frame
      ↔ ∃ current target cursor, ⟨frame, .migrating current target cursor⟩ ∈ s.tables.remap))
  ∧ (∀ (s : State) (line : Nat),
    (∀ option, s.repairEffect line option = repairReadEffect s.memory (s.sourceLine line) option)
    ∧ (∀ ws, s.writeEffect line ws = lineWriteEffect s.memory (s.sourceLine line) (s.dualLine line) ws)
    ∧ (∀ target, s.targetLine line = some target →
      s.copyEffect line = copyStepEffect s.memory (s.sourceLine line) target))

/-- ISOLATION. A Line Write or a Repair Read of one host line changes nothing that any other host line reads: no two
host lines share a physical line, and no migration target backs another frame (R51 to R54). -/
def Obligations.TenuresTouchOneHostLine : Prop :=
  ∀ (s : State) (a b : Nat), s.tables.Consistent → s.RemapInRange → a < s.straps.hostLines → b < s.straps.hostLines →
    a ≠ b →
    s.sourceLine a ≠ s.sourceLine b
    ∧ (∀ ws : List WordWrite, ws.length = 8 → ∀ w < 8, (s.memory.writeAll (s.writeEffect a ws).writes).read (wordKey (s.sourceLine b) w)
        = s.memory.read (wordKey (s.sourceLine b) w))
    ∧ (∀ option, ∀ w < 8, (s.memory.writeAll (s.repairEffect a option).writes).read (wordKey (s.sourceLine b) w)
        = s.memory.read (wordKey (s.sourceLine b) w))

/-- REFINEMENT. While a frame migrates, every tenure keeps the copy below the cursor equal to what a Copy Step makes of
the source: Line Writes reach both lines, Repair Reads the source alone, and the Copy Step at the cursor brings its own
line in, so that the cursor may advance and, at line 63, the frame may cut over with nothing lost (R15, R54, R55, R76, R78). -/
def Obligations.MigrationLosesNoWrite : Prop :=
  (∀ word : StoredWord, (copiedWord word).1 = match word with
    | .clean d | .single d _ => .clean d
    | .multi _ | .poison => .poison)
  ∧ (∀ (s : State) (m : MigrationRecord) (current : Option Nat) (target cursor : Nat),
    s.tables.entryOf m.frame = some ⟨m.frame, .migrating current target cursor⟩ →
    s.tables.cursorOf m.frame = cursor
    ∧ (s.advanceCursor m).tables = { s.tables.putEntry m.frame (.migrating m.old m.target (cursor + 1)) with
        migration := some { m with step := .waiting } }
    ∧ s.advanceCursor m = s.withTables (s.advanceCursor m).tables
    ∧ s.tables.cutOver m = { s.tables.putEntry m.frame (.active m.target) with spares := match m.old with
        | none => s.tables.spares.set m.target .assigned
        | some c => (s.tables.spares.set m.target .assigned).set c .failed })
  ∧ ∀ s : State, s.tables.Consistent → s.RemapInRange → s.MirrorsBelowCursor →
    (∀ (line : Nat) (ws : List WordWrite), line < s.straps.hostLines → ws.length = 8 →
      (s.withMemory (s.memory.writeAll (s.writeEffect line ws).writes)).MirrorsBelowCursor)
    ∧ (∀ line option, line < s.straps.hostLines →
      (s.withMemory (s.memory.writeAll (s.repairEffect line option).writes)).MirrorsBelowCursor)
    ∧ (∀ m, s.tables.migration = some m →
      let line := m.frame * 64 + s.tables.cursorOf m.frame
      let u := s.withMemory (s.memory.writeAll (s.copyEffect line).writes)
      (s.tables.cursorOf m.frame < 63 → (u.advanceCursor m).MirrorsBelowCursor)
      ∧ (s.tables.cursorOf m.frame = 63 → ∀ l < 64, ∀ w < 8,
          u.memory.read (wordKey ((u.withTables (s.tables.cutOver m)).sourceLine (m.frame * 64 + l)) w)
            = (copiedWord (s.memory.read (wordKey (s.sourceLine (m.frame * 64 + l)) w))).1))

/-! ### The channel and the arbiter (spec 02) -/

/-- The arbiter's choice. The requests that wait stand in R23's order: PORT, MIGRATION, RING, the four slots round from the one
after the last slot granted, PATROL. PORT presents by R31's table a read that no buffered write blocks, or a drain; MIGRATION
while its step waits (R75); RING the anchor read in STARTING, or, while the engine posts, a completion or an event for which
its ring has room, or the fetch (R21, R111, R119, R129); a slot in phase WAITING (R138); PATROL while its request waits (R102).
The first is granted, PORT is passed over at a guard count of 8 if another waits, and the count and the last slot change as
R23 and R24 say; a write into a protected line is refused instead (R26). After the grants of a happening, QUIESCING passes to
QUIESCED exactly when the pending list, the slots and the backlog are empty and no fetch is in its tenure (R116), and ATTN
takes the level of its three conditions (R126). -/
def Obligations.GrantsFollowOrderAndGuard : Prop :=
  ∀ s : State,
    let last := s.arbiter.lastSlot
    let granted := fun (r : Requester) (guard : Nat) => (s.withArbiter { s.arbiter with
      guard := guard
      lastSlot := match r with
        | .slot k => k
        | _ => last }).grant r
    let refused := fun (r : Requester) => ∃ k sl line, r = .slot k ∧ s.slotAt k = some sl
      ∧ (s.tables.attributesOfLine line).writeProtect = true
      ∧ ((∃ first length pattern, sl.command = .fill first length pattern ∧ line = first + sl.progress)
        ∨ (∃ source destination length held, sl.command = .copy source destination length ∧ sl.heldLine = some held
          ∧ line = destination + sl.progress))
    s.waiting = ([.port, .migration, .ring, .slot ((last + 1) % 4), .slot ((last + 2) % 4), .slot ((last + 3) % 4),
      .slot ((last + 4) % 4), .patrol] : List Requester).filter s.ready
    ∧ (s.ready .port = true ↔ (∃ l m d rest, s.port.buffer = .memory l m d :: rest)
      ∨ ∃ line mask, s.port.held = .readHeld line mask ∧ (∀ m d, .memory line m d ∉ s.port.buffer)
        ∧ s.port.buffer.length < 8)
    ∧ (s.ready .migration = true ↔ ∃ m, s.tables.migration = some m ∧ m.step = .waiting)
    ∧ (s.ready .ring = true ↔ (s.engine.state = .starting ∧ s.engine.anchorRequest ≠ none)
      ∨ ∃ r, s.engine.rings = some r
        ∧ (s.engine.state = .running ∨ s.engine.state = .quiescing ∨ s.engine.state = .quiesced)
        ∧ ((s.admission.backlog ≠ []
            ∧ ringDistance (2 ^ r.cq.exponent) r.cqProducer s.engine.cqHead.toNat < 2 ^ r.cq.exponent - 1)
          ∨ (s.news.events ≠ []
            ∧ ringDistance (2 ^ r.eq.exponent) r.eqProducer s.engine.eqHead.toNat < 2 ^ r.eq.exponent - 1)
          ∨ (s.engine.state = .running ∧ r.fetch ≠ s.engine.sqTail.toNat ∧ s.admission.pendingList.length < 16
            ∧ s.liveCount < 32 ∧ s.fetchInTenure = false)))
    ∧ (s.fetchInTenure = true ↔ ∃ t, s.arbiter.tenure = some t ∧ t.work = .fetch ∧ t.discarded = false)
    ∧ (∀ k, s.ready (.slot k) = true ↔ ∃ sl, s.slotAt k = some sl ∧ sl.phase = .waiting)
    ∧ (∀ k sl, s.slotAt k = some sl ↔ s.admission.slots[k]? = some (some sl))
    ∧ (s.ready .patrol = true ↔ ∃ line repair, s.patrol.phase = .waiting line repair)
    ∧ (s.arbiter.tenure.isSome = true → s.arbitrate = s)
    ∧ (s.arbiter.tenure = none → s.waiting = [] → s.arbitrate = s)
    ∧ (∀ r rest, s.arbiter.tenure = none → s.waiting = r :: rest → ¬refused r →
        (r = .port → s.arbiter.guard < 8 ∨ rest = []) →
        s.arbitrate = granted r (if r = .port ∧ rest ≠ [] then s.arbiter.guard + 1 else 0)
        ∧ s.arbitrate.arbiter.tenure.isSome = true
        ∧ s.arbitrate.arbiter.guard = (if r = .port ∧ rest ≠ [] then s.arbiter.guard + 1 else 0)
        ∧ s.arbitrate.arbiter.lastSlot = (match r with | .slot k => k | _ => last))
    ∧ (∀ r rest, s.arbiter.tenure = none → s.waiting = .port :: r :: rest → 8 ≤ s.arbiter.guard → ¬refused r →
        s.arbitrate = granted r 0 ∧ s.arbitrate.arbiter.tenure.isSome = true ∧ s.arbitrate.arbiter.guard = 0)
    ∧ s.conclude = { s.arbitrate with
        attn := s.conclude.attn
        engine := (let g := s.arbitrate
          if g.engine.state = .quiescing ∧ g.admission.pendingList = [] ∧ g.admission.slots.all (·.isNone) = true
              ∧ g.admission.backlog = [] ∧ g.fetchInTenure = false then { g.engine with state := .quiesced }
            else g.engine) }
    ∧ (let t := s.conclude
      t.attn = true ↔
        (∃ r, t.engine.rings = some r ∧ t.engine.enables.comp = true ∧ r.cqProducer ≠ t.engine.cqHead.toNat)
        ∨ (∃ r, t.engine.rings = some r ∧ t.engine.enables.event = true ∧ r.eqProducer ≠ t.engine.eqHead.toNat)
        ∨ (t.engine.enables.halt = true ∧ t.engine.state = .halted))

/-- What each grant does, the tenure acting on the words as routed and the requester's request no longer waiting.
PORT, by R31's table: a held read goes ahead of the drains unless the buffer holds an entry for its line or is full, and
decodes by R6's table; the drain writes the head entry, word w under bits 8w + 7 to 8w of the byte mask, every poison marker
clear (R2, R36); neither frees the entry or answers the host yet. The model's: bit w of a held read's mask selects word w
(log 23); word w's data is bits 64w + 63 to 64w of the write's one operand (log 24, deduced from R2). MIGRATION: the Copy Step at the cursor of its
frame's entry, from the source into the target spare (R55, R75). RING: the anchor read of the line asked for (R111), and,
when neither post is ready, the fetch of the record at the fetch index (R21, R117, R129). A slot: SCRUB's Repair Read with
its flag, VERIFY's read, FILL's line of the pattern, COPY's source read and then its destination write, a lost word as
poison (R148, R150, R151, R153, R154). PATROL: the kind its expiry settled, a Repair Read poisoning (R102). -/
def Obligations.PortGrantReadsOrDrains : Prop :=
  ∀ s : State,
    let decoded := fun (line w : Nat) => match s.memory.read (wordKey (s.sourceLine line) w) with
      | .clean d => ((.good, d) : DecodeClass × DataWord)
      | .single d b => (.corrected b, d)
      | .multi d => (.uncorrectable, d)
      | .poison => (.poisoned, 0#64)
    let eight := fun line => ((List.range 8).map fun w => ⟨w, some (decoded line w), .unchanged⟩ : List WordReport)
    let acts := fun (work : Work) (line : Nat) (e : TenureEffect) =>
      (s.withMemory (s.memory.writeAll e.writes)).withArbiter { s.arbiter with tenure := some ⟨work, line, e.reports, false⟩ }
    let reads := fun (work : Work) (line : Nat) =>
      s.withArbiter { s.arbiter with tenure := some ⟨work, line, eight line, false⟩ }
    (∀ line mask, s.port.held = .readHeld line mask → (∀ m d, .memory line m d ∉ s.port.buffer) →
      s.port.buffer.length < 8 →
      s.grant .port = s.withArbiter { s.arbiter with tenure := some ⟨.hostRead, line,
        ((List.range 8).filter fun w => mask.getLsbD w).map fun w => ⟨w, some (decoded line w), .unchanged⟩, false⟩ })
    ∧ (∀ l m d rest, s.port.buffer = .memory l m d :: rest →
      (∀ k v, s.port.held = .readHeld k v → (∃ m d, .memory k m d ∈ s.port.buffer) ∨ 8 ≤ s.port.buffer.length) →
      s.grant .port = acts .drain l (lineWriteEffect s.memory (s.sourceLine l) (s.dualLine l)
        ((List.range 8).map fun w => ⟨m.extractLsb' (8 * w) 8, d.extractLsb' (64 * w) 64, false⟩)))
    ∧ (∀ m old target cursor, s.tables.migration = some m → cursor < 64 →
      s.tables.entryOf m.frame = some ⟨m.frame, .migrating old target cursor⟩ →
      s.grant .migration
        = (acts .copyStep (m.frame * 64 + cursor) (copyStepEffect s.memory (s.sourceLine (m.frame * 64 + cursor))
            ((s.straps.hostFrames + target) * 64 + cursor))).withTables
          { s.tables with migration := some { m with step := .inTenure } })
    ∧ (∀ line, s.engine.state = .starting → s.engine.anchorRequest = some line →
      s.grant .ring = (reads .anchorRead line).withEngine { s.engine with anchorRequest := none })
    ∧ (∀ r : Rings, s.engine.state = .running → s.engine.rings = some r →
      s.admission.backlog = []
        ∨ 2 ^ r.cq.exponent - 1 ≤ ringDistance (2 ^ r.cq.exponent) r.cqProducer s.engine.cqHead.toNat →
      s.news.events = []
        ∨ 2 ^ r.eq.exponent - 1 ≤ ringDistance (2 ^ r.eq.exponent) r.eqProducer s.engine.eqHead.toNat →
      r.fetch ≠ s.engine.sqTail.toNat → s.admission.pendingList.length < 16 → s.liveCount < 32 →
      s.fetchInTenure = false → s.grant .ring = reads .fetch (r.sq.base / 64 + r.fetch))
    ∧ (∀ k sl, s.slotAt k = some sl →
      let taken := fun (t : State) => t.withAdmission { s.admission with
        slots := s.admission.slots.set k (some { sl with phase := .inTenure }) }
      let writes := fun (line : Nat) (words : List WordWrite) =>
        taken (acts (.slotStep k) line (lineWriteEffect s.memory (s.sourceLine line) (s.dualLine line) words))
      s.grant (.slot k) = match sl.command, sl.heldLine with
        | .scrub first _ poison, _ => taken (acts (.slotStep k) (first + sl.progress)
            (repairReadEffect s.memory (s.sourceLine (first + sl.progress)) poison))
        | .verify first _, _ => taken (reads (.slotStep k) (first + sl.progress))
        | .fill first _ pattern, _ => writes (first + sl.progress) (List.replicate 8 ⟨0xFF#8, pattern, false⟩)
        | .copy source _ _, none => taken (reads (.slotStep k) (source + sl.progress))
        | .copy _ destination _, some held => writes (destination + sl.progress) (held.map fun
            | (.good, d) => ⟨0xFF#8, d, false⟩
            | (.corrected _, d) => ⟨0xFF#8, d, false⟩
            | (.uncorrectable, _) => ⟨0xFF#8, 0#64, true⟩
            | (.poisoned, _) => ⟨0xFF#8, 0#64, true⟩))
    ∧ (∀ line repair, s.patrol.phase = .waiting line repair →
      s.grant .patrol = (if repair then acts .patrolStep line (repairReadEffect s.memory (s.sourceLine line) true)
        else reads .patrolStep line).withPatrol { s.patrol with phase := .inTenure line repair })

/-- INVARIANT. When a happening ends with the channel free, no request waits (R22). -/
def Obligations.NoRequestWaitsOnAFreeChannel : Prop :=
  ∀ s t : State, s.ChannelUsed → step s = .next t → t.ChannelUsed

/-- A write of FILL or COPY that finds WRITE_PROTECT at its grant makes no change to memory and ends at once: the slot
completes PROTECTED with its progress and counts and empties, the last slot is set, the guard returns to 0, the head of the
pending list is judged for issue, and the next choice follows (R26, R135, R152, R155). -/
def Obligations.ProtectedSlotWriteIsRefused : Prop :=
  ∀ (s : State) (k line : Nat) (sl : Slot), s.arbiter.tenure = none →
    (∃ rest, s.waiting = .slot k :: rest) ∨ (8 ≤ s.arbiter.guard ∧ ∃ rest, s.waiting = .port :: .slot k :: rest) →
    s.slotAt k = some sl →
    (∃ first length pattern, sl.command = .fill first length pattern ∧ line = first + sl.progress)
      ∨ (∃ source destination length held, sl.command = .copy source destination length ∧ sl.heldLine = some held
        ∧ line = destination + sl.progress) →
    (s.tables.attributesOfLine line).writeProtect = true → sl.abortedBy = none →
    s.arbitrate = State.arbitrate (State.issueAll
      ((s.withArbiter { s.arbiter with lastSlot := k, guard := 0 }).withAdmission
        { s.admission with
          slots := s.admission.slots.set k none
          backlog := s.admission.backlog ++ [⟨sl.tag, sl.command.kindCode, .lineProtected, sl.progress, sl.corrected,
            sl.uncorrectable, sl.poisoned, 0#28, true⟩] }))

/-! ### Host reads and writes (spec 03) -/

/-- HOST_READ: ADDRESS_ERROR beyond host memory, OKAY at once for an all-zero mask, else held (R29, R30). -/
def Obligations.HostReadIsAnsweredOrHeld : Prop :=
  ∀ (line : BitVec 28) (mask : BitVec 8) (s : State), s.hostTakes = true →
    (s.straps.hostFrames * 64 ≤ line.toNat →
      exec (.hostRead line mask) s = .next (s.withPort { s.port with answer := some ⟨.addressError, []⟩ }))
    ∧ (line.toNat < s.straps.hostFrames * 64 → mask = 0#8 →
      exec (.hostRead line mask) s = .next (s.withPort { s.port with answer := some ⟨.okay, []⟩ }))
    ∧ (line.toNat < s.straps.hostFrames * 64 → mask ≠ 0#8 →
      exec (.hostRead line mask) s = .next (s.withPort { s.port with held := .readHeld line.toNat mask }).conclude)

/-- HOST_WRITE: ADDRESS_ERROR, discarded, held while the buffer is full, refused by WRITE_PROTECT with a WRITE_REFUSED
event, or accepted into the buffer (R29, R34, R38). -/
def Obligations.HostWriteIsJudgedOnce : Prop :=
  ∀ (line : BitVec 28) (mask : BitVec 64) (data : BitVec 512) (s : State), s.hostTakes = true →
    (s.straps.hostFrames * 64 ≤ line.toNat →
      exec (.hostWrite line mask data) s = .next (s.withPort { s.port with answer := some ⟨.addressError, []⟩ }))
    ∧ (line.toNat < s.straps.hostFrames * 64 → mask = 0#64 →
      exec (.hostWrite line mask data) s = .next (s.withPort { s.port with answer := some ⟨.accepted, []⟩ }))
    ∧ (line.toNat < s.straps.hostFrames * 64 → mask ≠ 0#64 → 8 ≤ s.port.buffer.length →
      exec (.hostWrite line mask data) s
        = .next (s.withPort { s.port with held := .writeHeld (.memory line.toNat mask data) }).conclude)
    ∧ (line.toNat < s.straps.hostFrames * 64 → mask ≠ 0#64 → s.port.buffer.length < 8 →
      (s.tables.attributesOfLine line.toNat).writeProtect = true →
      exec (.hostWrite line mask data) s
        = .next (((s.withPort { s.port with answer := some ⟨.lineProtected, []⟩ }).offer
            { kind := .writeRefused, source := .hostWrite, line := line.toNat }).conclude))
    ∧ (line.toNat < s.straps.hostFrames * 64 → mask ≠ 0#64 → s.port.buffer.length < 8 → s.port.headIsMemory →
      (s.tables.attributesOfLine line.toNat).writeProtect = false →
      exec (.hostWrite line mask data) s
        = .next (s.withPort { s.port with
            answer := some ⟨.accepted, []⟩
            buffer := s.port.buffer ++ [.memory line.toNat mask data] }).conclude)

/-- HOST_READ_END: the response is built from the word reports alone, the port returns to IDLE, and each word is handed on
in order with source HOST_READ by R33's table: CORRECTED and UNCORRECTABLE words to the event stream, Fault Capture and the
Suspect Table, POISONED words as POISON_READ and uncounted. The rest of the happening is accounting: no memory, no slot, no
region changes before the next grant (R32, R33). -/
def Obligations.HostReadEndAnswers : Prop :=
  ∀ (s : State) (line : Nat) (reports : List WordReport) (discarded : Bool), s.resetAsserted = false →
    s.arbiter.tenure = some ⟨.hostRead, line, reports, discarded⟩ →
    ∃ (code : ResponseCode) (u : State), exec .hostReadEnd s = .next u.conclude
      ∧ (code = .dataError ↔ ∃ r ∈ reports, ∃ c d, r.decoded = some (c, d) ∧ (c = .uncorrectable ∨ c = .poisoned))
      ∧ (code = .okay ∨ code = .dataError)
      ∧ (let answered := (s.withArbiter { s.arbiter with tenure := none }).withPort { s.port with
          held := .idle
          answer := some ⟨code, reports.filterMap fun r => r.decoded.map fun d => (r.index, d.2)⟩ }
        Accounted answered u
        ∧ u = reports.foldl (fun t r => match r.decoded with
            | some (.corrected b, _) => t.handOn { kind := .corrected, source := .hostRead, line, word := r.index, bit := b.val }
                (.corrected b) (some false)
            | some (.uncorrectable, _) => t.handOn { kind := .uncorrectable, source := .hostRead, line, word := r.index }
                .uncorrectable (some true)
            | some (.poisoned, _) => t.handOn { kind := .poisonRead, source := .hostRead, line, word := r.index }
                .poisonRead none
            | some (.good, _) | none => t) answered)

/-- DRAIN_END: the entry leaves the buffer, the channel is free, and each reporting word is handed on in order with source
HOST_WRITE by the table of R37 and R173: a corrected merge as CORRECTED, a failed merge as MERGE_FAILED, counted only if the
old word was UNCORRECTABLE. Then register entries at the head take effect in acceptance order, each leaving, until a memory
entry is the head or the buffer is empty (R41); then a held write is accepted into the freed place, a held register write
that finds the buffer empty taking effect at once, or a held memory write is refused PROTECTED and leaves it empty (R36 steps
1 and 2, R38, R41). An SQ_TAIL delivered so is judged against N while the rings run and is stored in OFF, STARTING and HALTED
(R121, R122); a CTRL takes its enables first, then ENGINE_RESET acts from any state, START in OFF and QUIESCED, QUIESCE in
RUNNING, and a bit in any other state does nothing (R109, R111, R115, R116, R124). -/
def Obligations.DrainEndFreesTheHeadEntry : Prop :=
  (∀ (s : State) (line : Nat) (reports : List WordReport) (discarded : Bool) (head : PostEntry) (rest : List PostEntry),
    s.resetAsserted = false → s.arbiter.tenure = some ⟨.drain, line, reports, discarded⟩ → s.port.buffer = head :: rest →
    let freed := (s.withArbiter { s.arbiter with tenure := none }).withPort { s.port with buffer := rest }
    let u := reports.foldl (fun t r => match r.decoded with
      | some (.corrected b, _) => t.handOn { kind := .corrected, source := .hostWrite, line, word := r.index, bit := b.val }
          (.corrected b) (some false)
      | some (.uncorrectable, _) => t.handOn { kind := .mergeFailed, source := .hostWrite, line, word := r.index }
          .mergeFailed (some true)
      | some (.poisoned, _) => t.handOn { kind := .mergeFailed, source := .hostWrite, line, word := r.index }
          .mergeFailed none
      | some (.good, _) | none => t) freed
    Accounted freed u
    ∧ ((∀ r ∈ reports, ∀ d, r.decoded = some d → d.1 = .good) → u = freed)
    ∧ exec .drainEnd s = .next u.deliverHeads.acceptHeld.conclude
    ∧ ((∀ r v l, rest ≠ .register r v :: l) →
      ((∀ e, s.port.held ≠ .writeHeld e) → exec .drainEnd s = .next u.conclude)
      ∧ (∀ l m d, s.port.held = .writeHeld (.memory l m d) →
        ((s.tables.attributesOfLine l).writeProtect = false → exec .drainEnd s = .next (u.withPort
          { held := .idle, buffer := rest ++ [.memory l m d], answer := some ⟨.accepted, []⟩ }).conclude)
        ∧ ((s.tables.attributesOfLine l).writeProtect = true → exec .drainEnd s = .next ((u.withPort
          { held := .idle, buffer := rest, answer := some ⟨.lineProtected, []⟩ }).offer
            { kind := .writeRefused, source := .hostWrite, line := l }).conclude))
      ∧ (∀ target v, s.port.held = .writeHeld (.register target v) → rest ≠ [] → exec .drainEnd s = .next (u.withPort
          { held := .idle, buffer := rest ++ [.register target v], answer := some ⟨.accepted, []⟩ }).conclude))
    ∧ (∀ tail v, rest = .register .sqTail v :: tail → (∀ r v l, tail ≠ .register r v :: l) →
      ∀ r, s.engine.state.posts = true → s.engine.rings = some r → (v.extractLsb' 0 16).toNat < 2 ^ r.sq.exponent →
      let taken := u.withEngine { s.engine with sqTail := v.extractLsb' 0 16 }
      ((∀ e, s.port.held ≠ .writeHeld e) →
        exec .drainEnd s = .next (taken.withPort { s.port with buffer := tail }).conclude)
      ∧ (∀ l m d, s.port.held = .writeHeld (.memory l m d) → (s.tables.attributesOfLine l).writeProtect = false →
        exec .drainEnd s = .next (taken.withPort
          { held := .idle, buffer := tail ++ [.memory l m d], answer := some ⟨.accepted, []⟩ }).conclude)))
  ∧ (∀ t : State, t.deliverHeads.port.headIsMemory ∧ (t.port.headIsMemory → t.deliverHeads = t)
    ∧ ∀ target v rest, t.port.buffer = .register target v :: rest →
      t.deliverHeads = ((t.withPort { t.port with buffer := rest }).deliver target v).deliverHeads)
  ∧ (∀ (t : State) (v : BitVec 32),
    (∀ r, t.engine.state.posts = true → t.engine.rings = some r → v.toNat % 2 ^ 16 < 2 ^ r.sq.exponent →
      t.deliver .sqTail v = t.withEngine { t.engine with sqTail := v.setWidth 16 })
    ∧ (∀ r, t.engine.state.posts = true → t.engine.rings = some r → 2 ^ r.sq.exponent ≤ v.toNat % 2 ^ 16 →
      t.deliver .sqTail v = t.halt .badSqTail)
    ∧ (t.engine.state.posts = false → t.deliver .sqTail v = t.withEngine { t.engine with sqTail := v.setWidth 16 }))
  ∧ (∀ (t : State) (v : BitVec 32),
    let enabled := { t.engine with enables := ⟨v.getLsbD 8, v.getLsbD 9, v.getLsbD 10⟩ }
    (v.getLsbD 2 = true → t.deliver .ctrl v = { t with
      arbiter := { t.arbiter with tenure := t.arbiter.tenure.map fun x =>
        if x.work = .hostRead ∨ x.work = .drain then x else { x with discarded := true } }
      tables := t.tables.engineReset
      patrol := ⟨false, 1000#16, 0, .idle, false⟩
      engine := {
        state := .off, haltCause := .none, startError := .none, enables := enabled.enables, anchor := t.engine.anchor
        sqTail := 0#16, cqHead := 0#16, eqHead := 0#16, anchorRequest := none, rings := none, threshold := 16
        reportCorrected := false }
      admission := ⟨[], List.replicate 4 none, []⟩
      news := { t.news with events := [], overflow := none } })
    ∧ (v.getLsbD 0 = true → v.getLsbD 2 = false → t.engine.state = .off →
      t.engine.anchor.toNat < t.straps.hostFrames * 64 → t.deliver .ctrl v = t.withEngine { enabled with
        state := .starting, startError := .none, sqTail := 0#16, cqHead := 0#16, eqHead := 0#16
        anchorRequest := some t.engine.anchor.toNat })
    ∧ (v.getLsbD 0 = true → v.getLsbD 2 = false → t.engine.state = .off →
      t.straps.hostFrames * 64 ≤ t.engine.anchor.toNat → t.deliver .ctrl v = t.withEngine { enabled with
        startError := .anchorUnreadable, sqTail := 0#16, cqHead := 0#16, eqHead := 0#16 })
    ∧ (v.getLsbD 0 = true → v.getLsbD 2 = false → t.engine.state = .quiesced →
      t.deliver .ctrl v = t.withEngine { enabled with state := .running })
    ∧ (v.getLsbD 1 = true → v.getLsbD 2 = false → t.engine.state = .running →
      t.deliver .ctrl v = t.withEngine { enabled with
        state := if t.admission.pendingList = [] ∧ t.admission.slots.all (·.isNone) = true ∧ t.admission.backlog = []
            ∧ t.fetchInTenure = false then .quiesced else .quiescing })
    ∧ (v.getLsbD 2 = false → (v.getLsbD 0 = true → t.engine.state ≠ .off ∧ t.engine.state ≠ .quiesced) →
      (v.getLsbD 1 = true → t.engine.state ≠ .running) → t.deliver .ctrl v = t.withEngine enabled))
  ∧ (∀ t : State,
    ((∀ e, t.port.held ≠ .writeHeld e) → t.acceptHeld = t)
    ∧ (∀ l m d, t.port.held = .writeHeld (.memory l m d) → t.port.headIsMemory →
      ((t.tables.attributesOfLine l).writeProtect = false → t.acceptHeld = t.withPort
        { held := .idle, buffer := t.port.buffer ++ [.memory l m d], answer := some ⟨.accepted, []⟩ })
      ∧ ((t.tables.attributesOfLine l).writeProtect = true → t.acceptHeld = (t.withPort
        { held := .idle, buffer := t.port.buffer, answer := some ⟨.lineProtected, []⟩ }).offer
          { kind := .writeRefused, source := .hostWrite, line := l }))
    ∧ (∀ target v, t.port.held = .writeHeld (.register target v) → t.port.headIsMemory →
      (t.port.buffer ≠ [] → t.acceptHeld = t.withPort
        { held := .idle, buffer := t.port.buffer ++ [.register target v], answer := some ⟨.accepted, []⟩ })
      ∧ (t.port.buffer = [] → t.acceptHeld
        = (t.withPort { held := .idle, buffer := [], answer := some ⟨.accepted, []⟩ }).deliver target v)))

/-! ### Register writes -/

/-- Writes of CTRL and SQ_TAIL wait behind the memory writes posted before them: they join the tail of the buffer, or
are held while it is full, and change nothing else yet (R41). -/
def Obligations.PostedRegisterWritesWait : Prop :=
  ∀ (c : Instr) (target : PostedRegister) (v : BitVec 32) (s : State), s.hostTakes = true →
    (c = .start (v ||| 1#32) ∧ target = .ctrl ∧ v.getLsbD 0 = true
      ∨ c = .quiesce (v ||| 2#32) ∧ target = .ctrl ∧ v.getLsbD 1 = true
      ∨ c = .engineReset (v ||| 4#32) ∧ target = .ctrl ∧ v.getLsbD 2 = true
      ∨ c = .enableBits v ∧ target = .ctrl ∨ c = .sqTail v ∧ target = .sqTail) →
    (∀ l m d rest, s.port.buffer = .memory l m d :: rest → s.port.buffer.length < 8 →
      exec c s = .next (s.withPort { s.port with
        answer := some ⟨.accepted, []⟩, buffer := s.port.buffer ++ [.register target v] }).conclude)
    ∧ (8 ≤ s.port.buffer.length →
      exec c s = .next (s.withPort { s.port with held := .writeHeld (.register target v) }).conclude)

/-- ENABLE_BITS, START and QUIESCE taking effect from an empty buffer: the enables are taken first, then START acts in
OFF and QUIESCED, QUIESCE in RUNNING, and an action bit in any other state changes nothing (R109, R111, R115, R116). -/
def Obligations.CtrlActsByEngineState : Prop :=
  ∀ (v : BitVec 32) (s : State), s.hostTakes = true → s.port.buffer = [] →
    let u := (s.withPort { s.port with answer := some ⟨.accepted, []⟩ }).withEngine
      { s.engine with enables := ⟨v.getLsbD 8, v.getLsbD 9, v.getLsbD 10⟩ }
    (v.getLsbD 0 = false → v.getLsbD 1 = false → v.getLsbD 2 = false → exec (.enableBits v) s = .next u.conclude)
    ∧ (v.getLsbD 0 = true → v.getLsbD 2 = false → s.engine.state = .off →
        s.engine.anchor.toNat < s.straps.hostFrames * 64 →
        exec (.start v) s = .next (u.withEngine { u.engine with
          state := .starting, startError := .none, sqTail := 0#16, cqHead := 0#16, eqHead := 0#16
          anchorRequest := some s.engine.anchor.toNat }).conclude)
    ∧ (v.getLsbD 0 = true → v.getLsbD 2 = false → s.engine.state = .off →
        s.straps.hostFrames * 64 ≤ s.engine.anchor.toNat →
        exec (.start v) s = .next (u.withEngine { u.engine with
          startError := .anchorUnreadable, sqTail := 0#16, cqHead := 0#16, eqHead := 0#16 }).conclude)
    ∧ (v.getLsbD 0 = true → v.getLsbD 2 = false → s.engine.state = .quiesced →
        exec (.start v) s = .next (u.withEngine { u.engine with state := .running }).conclude)
    ∧ (v.getLsbD 0 = true → v.getLsbD 1 = false → v.getLsbD 2 = false →
        (s.engine.state = .starting ∨ s.engine.state = .running ∨ s.engine.state = .quiescing ∨ s.engine.state = .halted) →
        exec (.start v) s = .next u.conclude)
    ∧ (v.getLsbD 1 = true → v.getLsbD 2 = false → s.engine.state = .running →
        exec (.quiesce v) s = .next (u.withEngine { u.engine with
          state := if s.admission.pendingList = [] ∧ s.admission.slots.all (·.isNone) = true ∧ s.admission.backlog = []
              ∧ s.fetchInTenure = false then .quiesced else .quiescing }).conclude)
    ∧ (v.getLsbD 0 = false → v.getLsbD 1 = true → v.getLsbD 2 = false → s.engine.state ≠ .running →
        exec (.quiesce v) s = .next u.conclude)

/-- ENGINE_RESET taking effect from an empty buffer, from any engine state: what it empties, what it returns to reset
values, and what stands. Of the tables: a migration is reverted to its source, ACTIVE entries and the Region Table
stand, the Retire Queue is empty, the defaults are clear, and suspect entries keep their counts with QUEUED and
MIGRATING returned to NONE (R47, R63, R84, R99, R109, R124, R125, R127). -/
def Obligations.EngineResetEffect : Prop :=
  (∀ (v : BitVec 32) (s : State), s.hostTakes = true → s.port.buffer = [] → v.getLsbD 2 = true →
    exec (.engineReset v) s = .next (State.conclude
      { s with
        port := { s.port with answer := some ⟨.accepted, []⟩ }
        arbiter := { s.arbiter with tenure := s.arbiter.tenure.map fun t =>
          if t.work = .hostRead ∨ t.work = .drain then t else { t with discarded := true } }
        tables := s.tables.engineReset
        patrol := ⟨false, 1000#16, 0, .idle, false⟩
        engine := {
          state := .off, haltCause := .none, startError := .none
          enables := ⟨v.getLsbD 8, v.getLsbD 9, v.getLsbD 10⟩, anchor := s.engine.anchor
          sqTail := 0#16, cqHead := 0#16, eqHead := 0#16, anchorRequest := none, rings := none, threshold := 16
          reportCorrected := false }
        admission := ⟨[], List.replicate 4 none, []⟩
        news := { s.news with events := [], overflow := none } }))
  ∧ (∀ t : Tables, t.Consistent →
    t.engineReset.regions = t.regions ∧ t.engineReset.defaults = ⟨false, false, false, false⟩
    ∧ t.engineReset.retireQueue = [] ∧ t.engineReset.migration = none
    ∧ t.engineReset.evictionPointer = t.evictionPointer
    ∧ t.engineReset.suspects = t.suspects.map (Option.map fun e =>
        { e with retire := if e.retire = .refused then .refused else .none })
    ∧ (∀ frame, t.engineReset.entryOf frame = match t.entryOf frame with
        | some ⟨_, .migrating none _ _⟩ => none
        | some ⟨_, .migrating (some c) _ _⟩ => some ⟨frame, .active c⟩
        | e => e)
    ∧ t.engineReset.spares = t.spares.map fun st => if st = .target then .free else st)

/-- SQ_TAIL taking effect from an empty buffer is judged against N while the rings run, halting with BAD_SQ_TAIL when
it is N or above. A head is legal when it is below N and (new - old) mod N is at most (producer - old) mod N; a legal
one is taken, any other halts and the register keeps its value. In OFF, STARTING and HALTED all three are stored
without checks (R118, R120, R121, R122, R182). -/
def Obligations.IndexWritesAreJudgedAgainstTheRings : Prop :=
  (∀ (v : BitVec 32) (s : State), s.hostTakes = true → s.port.buffer = [] →
    let u := s.withPort { s.port with answer := some ⟨.accepted, []⟩ }
    (∀ r, s.engine.state.posts = true → s.engine.rings = some r → v.toNat % 2 ^ 16 < 2 ^ r.sq.exponent →
      exec (.sqTail v) s = .next (u.withEngine { s.engine with sqTail := v.setWidth 16 }).conclude)
    ∧ (∀ r, s.engine.state.posts = true → s.engine.rings = some r → 2 ^ r.sq.exponent ≤ v.toNat % 2 ^ 16 →
      exec (.sqTail v) s = .next (u.halt .badSqTail).conclude)
    ∧ (s.engine.state.posts = false →
      exec (.sqTail v) s = .next (u.withEngine { s.engine with sqTail := v.setWidth 16 }).conclude))
  ∧ (∀ (v : BitVec 32) (s : State), s.hostTakes = true →
    let u := s.withPort { s.port with answer := some ⟨.accepted, []⟩ }
    let new : Nat := v.toNat % 2 ^ 16
    (∀ r, s.engine.state.posts = true → s.engine.rings = some r →
      (new < 2 ^ r.cq.exponent ∧ ((new : Int) - s.engine.cqHead.toNat) % (2 ^ r.cq.exponent : Int)
          ≤ ((r.cqProducer : Int) - s.engine.cqHead.toNat) % (2 ^ r.cq.exponent : Int) →
        exec (.cqHead v) s = .next (u.withEngine { s.engine with cqHead := v.setWidth 16 }).conclude)
      ∧ (¬(new < 2 ^ r.cq.exponent ∧ ((new : Int) - s.engine.cqHead.toNat) % (2 ^ r.cq.exponent : Int)
          ≤ ((r.cqProducer : Int) - s.engine.cqHead.toNat) % (2 ^ r.cq.exponent : Int)) →
        exec (.cqHead v) s = .next (u.halt .badCqHead).conclude)
      ∧ (new < 2 ^ r.eq.exponent ∧ ((new : Int) - s.engine.eqHead.toNat) % (2 ^ r.eq.exponent : Int)
          ≤ ((r.eqProducer : Int) - s.engine.eqHead.toNat) % (2 ^ r.eq.exponent : Int) →
        exec (.eqHead v) s = .next (u.withEngine { s.engine with eqHead := v.setWidth 16 }).conclude)
      ∧ (¬(new < 2 ^ r.eq.exponent ∧ ((new : Int) - s.engine.eqHead.toNat) % (2 ^ r.eq.exponent : Int)
          ≤ ((r.eqProducer : Int) - s.engine.eqHead.toNat) % (2 ^ r.eq.exponent : Int)) →
        exec (.eqHead v) s = .next (u.halt .badEqHead).conclude))
    ∧ (s.engine.state.posts = false →
      exec (.cqHead v) s = .next (u.withEngine { s.engine with cqHead := v.setWidth 16 }).conclude
      ∧ exec (.eqHead v) s = .next (u.withEngine { s.engine with eqHead := v.setWidth 16 }).conclude))

/-- A halt while RUNNING, QUIESCING or QUIESCED latches its cause, holds the slots that wait and withdraws the patrol's
waiting request with its cursor kept; nothing else changes. A halt finds nothing to do in HALTED, OFF and STARTING
(R100, R106, R108, R122, R123, R140). -/
def Obligations.HaltHoldsSlotsAndPatrol : Prop :=
  (∀ e : EngineState, e.posts = true ↔ e = .running ∨ e = .quiescing ∨ e = .quiesced)
  ∧ (∀ s : State, s.patrolActive = true ↔ s.patrol.enabled = true ∧ s.engine.state.posts = true)
  ∧ ∀ (cause : HaltCause) (s : State),
    (s.engine.state.posts = true → s.halt cause = { s with
      engine := { s.engine with state := .halted, haltCause := cause }
      patrol := { s.patrol with phase := match s.patrol.phase with
        | .waiting _ _ => .idle
        | .idle => .idle
        | .inTenure line repair => .inTenure line repair }
      admission := { s.admission with slots := s.admission.slots.map (Option.map fun sl =>
        { sl with phase := if sl.phase = .inTenure then .inTenure else .held }) } }
      ∧ (s.halt cause).ready .ring = false ∧ (s.halt cause).patrolActive = false)
    ∧ (s.engine.state.posts = false → s.halt cause = s)

/-- ANCHOR stores bits 27:0 in any engine state; FAULT_INFO empties Fault Capture exactly when its clear bit is set; a
write to STAT, FAULT_ADDR or an offset that names no register is answered and changes nothing (R40, R121, R176, R182). -/
def Obligations.UnpostedRegisterWrites : Prop :=
  ∀ (v : BitVec 32) (s : State), s.hostTakes = true →
    let u := s.withPort { s.port with answer := some ⟨.accepted, []⟩ }
    exec (.anchor v) s = .next (u.withEngine { s.engine with anchor := v.setWidth 28 })
    ∧ (v.getLsbD 31 = true → exec (.faultInfoClear v) s = .next (u.withNews { s.news with capture := none })
        ∧ (u.withNews { s.news with capture := none }).readRegister 0x18 = 0#32
        ∧ (u.withNews { s.news with capture := none }).readRegister 0x1C = 0#32)
    ∧ (∀ offset, offset ∉ [0x00, 0x08, 0x0C, 0x10, 0x14, 0x1C] → exec (.registerWriteOther offset v) s = .next u)
    ∧ (v.getLsbD 31 = false → exec (.registerWriteOther 0x1C v) s = .next u)

/-- The registers read the named fields at their positions, the codes as 11.6 and 11.1 number them, and 0 in every other
bit; an offset that names no register reads 0 (R39, R110, R174, R182). -/
def Obligations.RegisterReadsShowNamedFieldsOnly : Prop :=
  ∀ s : State,
    let bit := fun (offset i : Nat) => (s.readRegister offset).getLsbD i
    let field := fun (offset lo len : Nat) => ((s.readRegister offset).extractLsb' lo len).toNat
    (s.readRegister 0x00 &&& ~~~0x00000700#32 = 0#32
      ∧ bit 0x00 8 = s.engine.enables.comp ∧ bit 0x00 9 = s.engine.enables.event ∧ bit 0x00 10 = s.engine.enables.halt)
    ∧ (s.readRegister 0x04 &&& ~~~0x000F0777#32 = 0#32
      ∧ field 0x04 0 3 = (match s.engine.state with
          | .off => 0 | .starting => 1 | .running => 2 | .quiescing => 3 | .quiesced => 4 | .halted => 5)
      ∧ field 0x04 4 3 = (match s.engine.haltCause with
          | .none => 0 | .commandUnreadable => 1 | .badSqTail => 2 | .badCqHead => 3 | .badEqHead => 4)
      ∧ field 0x04 8 3 = (match s.engine.startError with
          | .none => 0 | .anchorUnreadable => 1 | .anchorVersion => 2 | .ringSize => 3 | .ringPlacement => 4
          | .threshold => 5)
      ∧ bit 0x04 16 = s.tables.migration.isSome ∧ bit 0x04 17 = s.port.buffer.isEmpty
      ∧ bit 0x04 18 = !s.admission.backlog.isEmpty ∧ bit 0x04 19 = s.news.overflow.isSome)
    ∧ (s.readRegister 0x08 &&& ~~~0x0FFFFFFF#32 = 0#32 ∧ (s.readRegister 0x08).extractLsb' 0 28 = s.engine.anchor)
    ∧ (s.readRegister 0x0C &&& ~~~0x0000FFFF#32 = 0#32 ∧ (s.readRegister 0x0C).extractLsb' 0 16 = s.engine.sqTail)
    ∧ (s.readRegister 0x10 &&& ~~~0x0000FFFF#32 = 0#32 ∧ (s.readRegister 0x10).extractLsb' 0 16 = s.engine.cqHead)
    ∧ (s.readRegister 0x14 &&& ~~~0x0000FFFF#32 = 0#32 ∧ (s.readRegister 0x14).extractLsb' 0 16 = s.engine.eqHead)
    ∧ (s.news.capture = none → s.readRegister 0x18 = 0#32 ∧ s.readRegister 0x1C = 0#32)
    ∧ (∀ c, s.news.capture = some c →
      s.readRegister 0x18 &&& ~~~0x0FFFFFFF#32 = 0#32 ∧ field 0x18 0 28 = c.line % 2 ^ 28
      ∧ s.readRegister 0x1C &&& ~~~0x407F077F#32 = 0#32 ∧ bit 0x1C 0 = true
      ∧ field 0x1C 1 3 = (match c.kind with
          | .corrected _ => 0 | .uncorrectable => 3 | .poisonRead => 5 | .mergeFailed => 7)
      ∧ field 0x1C 4 3 = (match c.source with
          | .hostRead => 0 | .hostWrite => 1 | .fetch => 2 | .scrub => 3 | .verify => 4 | .copy => 5 | .patrol => 6
          | .migration => 7)
      ∧ field 0x1C 8 3 = c.word % 8
      ∧ field 0x1C 16 7 = (match c.kind with | .corrected b => b.val | _ => 0)
      ∧ bit 0x1C 30 = c.more)
    ∧ (∀ offset, offset ∉ [0x00, 0x04, 0x08, 0x0C, 0x10, 0x14, 0x18, 0x1C] → s.readRegister offset = 0#32)

/-- INVARIANT. ATTN stands at the level of R126's three conditions after every step. -/
def Obligations.StepsKeepAttnLevel : Prop :=
  ∀ s t : State, (s.attn = true ↔
      (∃ r, s.engine.rings = some r ∧ s.engine.enables.comp = true ∧ r.cqProducer ≠ s.engine.cqHead.toNat)
      ∨ (∃ r, s.engine.rings = some r ∧ s.engine.enables.event = true ∧ r.eqProducer ≠ s.engine.eqHead.toNat)
      ∨ (s.engine.enables.halt = true ∧ s.engine.state = .halted)) →
    step s = .next t → (t.attn = true ↔
      (∃ r, t.engine.rings = some r ∧ t.engine.enables.comp = true ∧ r.cqProducer ≠ t.engine.cqHead.toNat)
      ∨ (∃ r, t.engine.rings = some r ∧ t.engine.enables.event = true ∧ r.eqProducer ≠ t.engine.eqHead.toNat)
      ∨ (t.engine.enables.halt = true ∧ t.engine.state = .halted))

/-! ### Starting, fetching and posting (spec 07, 08, 11) -/

/-- The anchor's checks in their order: the first that fails decides the start error (R113, R178). -/
def Obligations.AnchorChecksInOrder : Prop :=
  ∀ (a : AnchorRecord) (hostFrames : Nat),
    let sizes := (4 ≤ a.sq.exponent ∧ a.sq.exponent ≤ 12) ∧ (4 ≤ a.cq.exponent ∧ a.cq.exponent ≤ 12)
      ∧ (4 ≤ a.eq.exponent ∧ a.eq.exponent ≤ 10)
    let inSq := fun b => a.sq.base ≤ b ∧ b < a.sq.base + 2 ^ a.sq.exponent * 64
    let inCq := fun b => a.cq.base ≤ b ∧ b < a.cq.base + 2 ^ a.cq.exponent * 16
    let inEq := fun b => a.eq.base ≤ b ∧ b < a.eq.base + 2 ^ a.eq.exponent * 32
    let placement := (4096 ∣ a.sq.base ∧ 4096 ∣ a.cq.base ∧ 4096 ∣ a.eq.base)
      ∧ a.sq.base + 2 ^ a.sq.exponent * 64 ≤ hostFrames * 4096
      ∧ a.cq.base + 2 ^ a.cq.exponent * 16 ≤ hostFrames * 4096
      ∧ a.eq.base + 2 ^ a.eq.exponent * 32 ≤ hostFrames * 4096
      ∧ (∀ b : Nat, ¬(inSq b ∧ inCq b) ∧ ¬(inSq b ∧ inEq b) ∧ ¬(inCq b ∧ inEq b))
    (a.version ≠ 1 → a.validate hostFrames = .anchorVersion)
    ∧ (a.version = 1 → ¬sizes → a.validate hostFrames = .ringSize)
    ∧ (a.version = 1 → sizes → ¬placement → a.validate hostFrames = .ringPlacement)
    ∧ (a.version = 1 → sizes → placement → ¬(1 ≤ a.threshold ∧ a.threshold ≤ 255) → a.validate hostFrames = .threshold)
    ∧ (a.version = 1 → sizes → placement → 1 ≤ a.threshold → a.threshold ≤ 255 → a.validate hostFrames = .none)

/-- ANCHOR_READ_END in STARTING: the detections are handed on first, with source FETCH and no tag (R112). A lost word fails
the start ANCHOR_UNREADABLE: the engine is OFF and the rest is accounting. With none lost, an anchor that passes its checks
gives the engine its rings, threshold, flag and default attributes and RUNNING, unless a stored index fails, which halts it;
one that fails returns it to OFF with its start error and nothing else taken (R112, R113, R114). The fields stand in the
delivered words as 11.2 places them (R178). -/
def Obligations.AnchorReadEndStartsOrFails : Prop :=
  (∀ (s : State) (line : Nat) (reports : List WordReport), s.resetAsserted = false → s.engine.state = .starting →
    s.arbiter.tenure = some ⟨.anchorRead, line, reports, false⟩ →
    let free := s.withArbiter { s.arbiter with tenure := none }
    let u := reports.foldl (handedOn .fetch none line) free
    let lost := ∃ r ∈ reports, ∃ c d, r.decoded = some (c, d) ∧ (c = .uncorrectable ∨ c = .poisoned)
    let a := anchorOfWords (reports.filterMap fun r => r.decoded.map (·.2))
    let run := (u.withTables { u.tables with defaults := a.attributes }).withEngine { s.engine with
      state := .running, rings := some ⟨a.sq, a.cq, a.eq, 0, 0, 0, true, true⟩, threshold := a.threshold
      reportCorrected := a.reportCorrected }
    Accounted free u
    ∧ (lost → exec .anchorReadEnd s
        = .next (u.withEngine { s.engine with state := .off, startError := .anchorUnreadable }).conclude)
    ∧ (¬lost → a.validate s.straps.hostFrames ≠ .none → exec .anchorReadEnd s
        = .next (u.withEngine { s.engine with state := .off, startError := a.validate s.straps.hostFrames }).conclude)
    ∧ (¬lost → a.validate s.straps.hostFrames = .none →
      (s.engine.sqTail.toNat < 2 ^ a.sq.exponent → s.engine.cqHead = 0#16 → s.engine.eqHead = 0#16 →
        exec .anchorReadEnd s = .next run.conclude)
      ∧ (2 ^ a.sq.exponent ≤ s.engine.sqTail.toNat → exec .anchorReadEnd s = .next (run.halt .badSqTail).conclude)
      ∧ (s.engine.sqTail.toNat < 2 ^ a.sq.exponent → s.engine.cqHead ≠ 0#16 →
        exec .anchorReadEnd s = .next (run.halt .badCqHead).conclude)
      ∧ (s.engine.sqTail.toNat < 2 ^ a.sq.exponent → s.engine.cqHead = 0#16 → s.engine.eqHead ≠ 0#16 →
        exec .anchorReadEnd s = .next (run.halt .badEqHead).conclude)))
  ∧ (∀ w0 w1 w2 w3 w4 w5 w6 w7 : DataWord,
    anchorOfWords [w0, w1, w2, w3, w4, w5, w6, w7] =
      { version := (w0.extractLsb' 0 8).toNat, reportCorrected := w0.getLsbD 8, threshold := (w0.extractLsb' 16 16).toNat
        attributes := ⟨w0.getLsbD 32, w0.getLsbD 33, w0.getLsbD 34, w0.getLsbD 35⟩
        sq := ⟨w1.toNat, (w4.extractLsb' 0 8).toNat⟩, cq := ⟨w2.toNat, (w4.extractLsb' 8 8).toNat⟩
        eq := ⟨w3.toNat, (w4.extractLsb' 16 8).toNat⟩ })

/-- A tenure whose requester was reset or aborted since its grant ends with its reports discarded, and a post's end
does nothing but free the channel (R18, R119, R125). -/
def Obligations.DiscardedTenuresAndPostsOnlyEnd : Prop :=
  ∀ (s : State) (t : Tenure), s.resetAsserted = false → s.arbiter.tenure = some t →
    let free := s.withArbiter { s.arbiter with tenure := none }
    (t.work = .completionPost ∨ t.work = .eventPost → exec .ringPostEnd s = .next free.conclude)
    ∧ (t.discarded = true → (t.work = .anchorRead → exec .anchorReadEnd s = .next free.conclude)
      ∧ (t.work = .fetch → exec .fetchEnd s = .next free.conclude)
      ∧ (t.work = .copyStep → exec .copyStepEnd s = .next free.conclude)
      ∧ (∀ k, t.work = .slotStep k → exec .slotTenureEnd s = .next free.conclude)
      ∧ (t.work = .patrolStep → exec .patrolTenureEnd s = .next free.conclude))

/-- FETCH_END: the fetch index advances whatever the record holds, and the detections are handed on with source FETCH and no
tag; a record read whole is taken for judgement in RUNNING and QUIESCING, from the delivered data; a lost word halts the
engine COMMAND_UNREADABLE with no completion (where no request waits for an IDLE Migration Unit, R72); in HALTED the record
is discarded (R118, R123, R130). -/
def Obligations.FetchEndTakesTheRecord : Prop :=
  ∀ (s : State) (line : Nat) (reports : List WordReport) (r : Rings), s.resetAsserted = false → s.engine.rings = some r →
    s.arbiter.tenure = some ⟨.fetch, line, reports, false⟩ →
    let next := (s.withArbiter { s.arbiter with tenure := none }).withEngine
      { s.engine with rings := some { r with fetch := (r.fetch + 1) % 2 ^ r.sq.exponent } }
    let u := reports.foldl (handedOn .fetch none line) next
    let lost := ∃ x ∈ reports, ∃ c d, x.decoded = some (c, d) ∧ (c = .uncorrectable ∨ c = .poisoned)
    Accounted next u
    ∧ (s.engine.state = .running ∨ s.engine.state = .quiescing →
      (¬lost → exec .fetchEnd s
        = .next (u.takeRecord (recordOfWords (reports.filterMap fun x => x.decoded.map (·.2)))).conclude)
      ∧ (lost → exec .fetchEnd s = .next (u.halt .commandUnreadable).conclude))
    ∧ (s.engine.state = .halted → exec .fetchEnd s = .next u.conclude)
    ∧ ((s.tables.migration = none → s.tables.retireQueue = []) → u.admission = s.admission)

/-- ENCODING. Reading back the record that software writes for a command gives the command, its kind and its tag, for
every value its fields can hold; of any eight words, each kind reads its fields at the places and widths of 11.3 (R179). -/
def Obligations.CommandRecordRoundTrip : Prop :=
  (∀ (tag : Tag) (c : Command), c.fits = true → recordOfWords (c.record tag) = ⟨tag, c.kindCode, some c⟩)
  ∧ (∀ w0 w1 w2 w3 w4 w5 w6 w7 : DataWord,
    let first := (w1.extractLsb' 0 32).toNat
    let length := (w2.extractLsb' 0 32).toNat
    let frame := (w2.extractLsb' 32 32).toNat
    let spare := (w3.extractLsb' 0 16).toNat
    recordOfWords [w0, w1, w2, w3, w4, w5, w6, w7] = ⟨w0.extractLsb' 0 16, w0.extractLsb' 16 4,
      match (w0.extractLsb' 16 4).toNat with
      | 1 => some (.slot (.scrub first length (w0.getLsbD 24)))
      | 2 => some (.slot (.verify first length))
      | 3 => some (.slot (.fill first length w6))
      | 4 => some (.slot (.copy first (w1.extractLsb' 32 32).toNat length))
      | 5 => some (.retire frame)
      | 6 => some (.install frame spare)
      | 7 => some (.withdrawSpare spare)
      | 8 => some (.query frame)
      | 9 => some (.clearSuspect frame)
      | 10 => some (.setRegion (w3.extractLsb' 48 8).toNat (w0.getLsbD 24) w5.toNat (w3.extractLsb' 56 8).toNat
          ⟨w4.getLsbD 0, w4.getLsbD 1, w4.getLsbD 2, w4.getLsbD 3⟩)
      | 11 => some (.setPatrol (w0.getLsbD 24) (w3.extractLsb' 32 16) (w0.getLsbD 25))
      | 12 => some .fence
      | 13 => some (.abort (w3.extractLsb' 16 16))
      | _ => none⟩)

/-- ENCODING. The completion record carries every field at its place in 11.4 and the event record at its place in 11.5,
with 0 in the reserved bits; the codes are those of 11.1, 11.3, 11.4 and 11.5, the kinds, the spare states of
WITHDRAW_SPARE and the retirement states of QUERY and CLEAR_SUSPECT among them (R180, R181). -/
def Obligations.PostedRecordLayouts : Prop :=
  (∀ (c : Completion) (lap : Bool), c.corrected < 2 ^ 16 → c.uncorrectable < 2 ^ 16 → c.poisoned < 2 ^ 16 →
    c.linesDone < 2 ^ 25 →
    ∃ w0 w1, c.words lap = [w0, w1]
      ∧ w0.extractLsb' 0 16 = c.tag ∧ (w0.extractLsb' 16 16).toNat = c.corrected
      ∧ (w0.extractLsb' 32 16).toNat = c.uncorrectable ∧ (w0.extractLsb' 48 16).toNat = c.poisoned
      ∧ (w1.extractLsb' 0 25).toNat = c.linesDone ∧ w1.extractLsb' 25 4 = c.kind ∧ w1.extractLsb' 29 2 = 0#2
      ∧ w1.getLsbD 31 = lap ∧ w1.extractLsb' 32 28 = c.result ∧ (w1.extractLsb' 60 4).toNat = c.status.code)
  ∧ (∀ (e : EventRecord) (lap : Bool), e.line < 2 ^ 28 → e.word < 8 → e.bit < 72 → e.count < 2 ^ 16 → e.frame < 2 ^ 22 →
    (∀ k, e.spare = some k → k < 64) →
    ∃ w0 w1 w2, e.words lap = [w0, w1, w2, 0#64]
      ∧ (w0.extractLsb' 0 4).toNat = e.kind.code ∧ (w0.extractLsb' 4 3).toNat = e.source.code ∧ w0.getLsbD 7 = lap
      ∧ w0.getLsbD 8 = e.tag.isSome ∧ w0.getLsbD 9 = e.spare.isSome ∧ w0.getLsbD 10 = e.cause ∧ w0.getLsbD 11 = false
      ∧ (w0.extractLsb' 12 4).toNat = ((e.firstLost.map (·.code)).getD 0)
      ∧ w0.extractLsb' 16 16 = e.tag.getD 0#16 ∧ (w0.extractLsb' 32 28).toNat = e.line ∧ w0.extractLsb' 60 4 = 0#4
      ∧ (w1.extractLsb' 0 3).toNat = e.word ∧ w1.extractLsb' 3 5 = 0#5 ∧ (w1.extractLsb' 8 8).toNat = e.bit
      ∧ (w1.extractLsb' 16 16).toNat = e.count ∧ (w1.extractLsb' 32 22).toNat = e.frame ∧ w1.extractLsb' 54 10 = 0#10
      ∧ (w2.extractLsb' 0 6).toNat = e.spare.getD 0 ∧ w2.extractLsb' 6 58 = 0#58)
  ∧ [Status.success, .dataErrors, .lineProtected, .badAddress, .invalidCommand, .invalidField, .duplicateTag, .aborted,
      .notFound, .noSpare, .queueFull, .conflict].map Status.code = List.range 12
  ∧ [Source.hostRead, .hostWrite, .fetch, .scrub, .verify, .copy, .patrol, .migration].map Source.code = List.range 8
  ∧ [EventKind.corrected, .uncorrectable, .poisonRead, .mergeFailed, .writeRefused, .retireStarted, .retireDone,
      .retireRefused, .retireAborted, .spareFailed, .patrolPass, .overflow].map (fun k => k.code - 1) = List.range 12
  ∧ [EventKind.corrected, .overflow].map EventKind.code = [1, 12]
  ∧ [SpareState.free, .assigned, .target, .failed].map SpareState.code = [0, 1, 2, 3]
  ∧ [RetireState.none, .queued, .migrating, .refused].map RetireState.code = [0, 1, 2, 3]
  ∧ (∀ c : Command, c.kindCode.toNat = match c with
      | .slot (.scrub _ _ _) => 1
      | .slot (.verify _ _) => 2
      | .slot (.fill _ _ _) => 3
      | .slot (.copy _ _ _) => 4
      | .retire _ => 5
      | .install _ _ => 6
      | .withdrawSpare _ => 7
      | .query _ => 8
      | .clearSuspect _ => 9
      | .setRegion _ _ _ _ _ => 10
      | .setPatrol _ _ _ => 11
      | .fence => 12
      | .abort _ => 13)

/-- A completion post, settled at its grant: the record stands at the producer index with the lap bit, in two whole
words of its line, the completion has left the backlog, the producer has advanced and the lap bit inverts at the wrap;
no other word of the line's own physical line is written (R117, R119, R141, R180). A ring has room while (producer - head) mod
N is less than N - 1 (R119). -/
def Obligations.CompletionPostIsSettledAtItsGrant : Prop :=
  (∀ n x y : Nat, 0 < n → (ringDistance n x y : Int) = ((x : Int) - y) % n)
  ∧ ∀ (s : State) (r : Rings) (c : Completion) (rest : List Completion),
    s.engine.state.posts = true → s.engine.rings = some r → s.admission.backlog = c :: rest →
    ringDistance (2 ^ r.cq.exponent) r.cqProducer s.engine.cqHead.toNat < 2 ^ r.cq.exponent - 1 →
    let line := r.cq.base / 64 + r.cqProducer / 4
    let t := s.grant .ring
    let next := (r.cqProducer + 1) % 2 ^ r.cq.exponent
    t.admission = { s.admission with backlog := rest }
    ∧ t.engine = { s.engine with rings := some { r with
        cqProducer := next, cqLap := if next = 0 then !r.cqLap else r.cqLap } }
    ∧ t = { s with memory := t.memory, engine := t.engine, admission := t.admission
                   arbiter := { s.arbiter with tenure := t.arbiter.tenure } }
    ∧ t.arbiter.tenure.map (fun x => (x.work, x.line, x.discarded)) = some (.completionPost, line, false)
    ∧ t.memory.read (wordKey (s.sourceLine line) (2 * (r.cqProducer % 4))) = .clean ((c.words r.cqLap).getD 0 0#64)
    ∧ t.memory.read (wordKey (s.sourceLine line) (2 * (r.cqProducer % 4) + 1)) = .clean ((c.words r.cqLap).getD 1 0#64)
    ∧ (∀ l w, w < 8 → ¬(w = 2 * (r.cqProducer % 4) ∨ w = 2 * (r.cqProducer % 4) + 1)
        ∨ l ≠ s.sourceLine line ∧ s.dualLine line ≠ some l → t.memory.read (wordKey l w) = s.memory.read (wordKey l w))

/-- An event post, settled at its grant: four whole words at the producer index, the record gone from the list, and a
pending overflow summary's OVERFLOW record joins the tail in the freed place; it is presented when no completion waits and
when the completions that wait find their ring full, and those stay where they are (R21, R119, R171, R172). -/
def Obligations.EventPostIsSettledAtItsGrant : Prop :=
  ∀ (s : State) (r : Rings) (e : EventRecord) (rest : List EventRecord),
    s.engine.state.posts = true → s.engine.rings = some r →
    s.admission.backlog = []
      ∨ 2 ^ r.cq.exponent - 1 ≤ ringDistance (2 ^ r.cq.exponent) r.cqProducer s.engine.cqHead.toNat →
    s.news.events = e :: rest →
    ringDistance (2 ^ r.eq.exponent) r.eqProducer s.engine.eqHead.toNat < 2 ^ r.eq.exponent - 1 →
    let line := r.eq.base / 64 + r.eqProducer / 2
    let t := s.grant .ring
    let next := (r.eqProducer + 1) % 2 ^ r.eq.exponent
    t.news = { s.news with
      events := rest ++ (s.news.overflow.map fun o =>
        { kind := .overflow, source := o.firstSource, count := o.count, firstLost := some o.firstKind }).toList
      overflow := none }
    ∧ t.engine = { s.engine with rings := some { r with
        eqProducer := next, eqLap := if next = 0 then !r.eqLap else r.eqLap } }
    ∧ t = { s with memory := t.memory, engine := t.engine, news := t.news
                   arbiter := { s.arbiter with tenure := t.arbiter.tenure } }
    ∧ t.arbiter.tenure.map (fun x => (x.work, x.line, x.discarded)) = some (.eventPost, line, false)
    ∧ (∀ i < 4, t.memory.read (wordKey (s.sourceLine line) (4 * (r.eqProducer % 2) + i))
        = .clean ((e.words r.eqLap).getD i 0#64))
    ∧ (∀ l w, w < 8 → w / 4 ≠ r.eqProducer % 2 ∨ l ≠ s.sourceLine line ∧ s.dualLine line ≠ some l →
        t.memory.read (wordKey l w) = s.memory.read (wordKey l w))

/-! ### Migration (spec 04, 05) -/

/-- INVARIANT. The laws of a retirement in progress hold after every step: Remap Table, Spare Pool, Retire Queue,
Migration Unit and Suspect Table stay consistent (R51, R66, R69, R72, R89). -/
def Obligations.StepsKeepRetirementLaws : Prop :=
  ∀ s t : State, s.RetirementLaws → step s = .next t → t.RetirementLaws

/-- COPY_STEP_END below line 63: the record's counts rise by the reports, the cursor advances by 1, the next Copy Step
waits, the channel is free; each detection of the source is reported and captured in order with source MIGRATION and the
tag of a commanded retirement, and the Suspect Table is not counted (R75, R76, R77). -/
def Obligations.CopyStepEndAdvancesTheCursor : Prop :=
  ∀ (s : State) (m : MigrationRecord) (line cursor : Nat) (reports : List WordReport), s.resetAsserted = false →
    s.arbiter.tenure = some ⟨.copyStep, line, reports, false⟩ → s.tables.migration = some m →
    s.tables.entryOf m.frame = some ⟨m.frame, .migrating m.old m.target cursor⟩ → cursor < 63 →
    let tag := match m.origin with
      | .auto => none
      | .command tag => some tag
    ∃ u : State, exec .copyStepEnd s = .next u.conclude
      ∧ u.tables = { s.tables.putEntry m.frame (.migrating m.old m.target (cursor + 1)) with
          migration := some { m with
            corrected := m.corrected + (reports.filter fun r : WordReport => r.decoded.any fun d => match d.1 with
              | .corrected _ => true
              | _ => false).length
            uncorrectable := m.uncorrectable + (reports.filter fun r : WordReport => r.decoded.any fun d => d.1 == .uncorrectable).length
            poisonedWords := m.poisonedWords + (reports.filter fun r : WordReport => r.written == .poison).length
            poisonedLines := m.poisonedLines + (if reports.any (·.written == .poison) then 1 else 0)
            step := .waiting } }
      ∧ u.news = (reports.foldl (fun t r => match r.decoded with
          | some (.corrected b, _) => t.handOn
              { kind := .corrected, source := .migration, tag, line, word := r.index, bit := b.val } (.corrected b) none
          | some (.uncorrectable, _) => t.handOn
              { kind := .uncorrectable, source := .migration, tag, line, word := r.index } .uncorrectable none
          | some (.poisoned, _) | some (.good, _) | none => t) s).news
      ∧ u.arbiter = { s.arbiter with tenure := none } ∧ u.memory = s.memory ∧ u.admission = s.admission
      ∧ u.port = s.port ∧ u.engine = s.engine ∧ u.patrol = s.patrol ∧ u.straps = s.straps ∧ u.attn = s.attn
      ∧ u.resetAsserted = s.resetAsserted ∧ u.pending = s.pending

/-- COPY_STEP_END of line 63, whatever its words decoded, cuts over: the entry is ACTIVE on the target, which is ASSIGNED, an
old spare is FAILED, the frame's suspect entry is gone, and a commanded retirement's completion carries 64 lines and the
record's counts with the last step's; the last step's detections are reported first, then SPARE_FAILED of an old spare, then
RETIRE_DONE (R76 to R80, R88). With an empty Retire Queue the unit is IDLE; else the head request is taken in the same
happening and starts on the lowest FREE spare; with no FREE spare every queued request is refused NO_SPARE in queue order,
its event and a commanded one's completion in that order, and the unit stays IDLE with its queue empty. A queued frame's
suspect entry follows: MIGRATING, QUEUED or REFUSED (R69, R72 to R74, R79 step 6). No memory is written. -/
def Obligations.CopyStepEndCutsOver : Prop :=
  ∀ (s : State) (m : MigrationRecord) (line : Nat) (reports : List WordReport), s.resetAsserted = false →
    s.arbiter.tenure = some ⟨.copyStep, line, reports, false⟩ → s.tables.migration = some m →
    s.tables.entryOf m.frame = some ⟨m.frame, .migrating m.old m.target 63⟩ →
    let tag := match m.origin with
      | .auto => none
      | .command tag => some tag
    let corrected := m.corrected + (reports.filter fun r : WordReport => r.decoded.any fun d => match d.1 with
      | .corrected _ => true
      | _ => false).length
    let uncorrectable := m.uncorrectable
      + (reports.filter fun r : WordReport => r.decoded.any fun d => d.1 == .uncorrectable).length
    let poisonedWords := m.poisonedWords + (reports.filter fun r : WordReport => r.written == .poison).length
    let poisonedLines := m.poisonedLines + (if reports.any (·.written == .poison) then 1 else 0)
    let spares := match m.old with
      | none => s.tables.spares.set m.target .assigned
      | some c => (s.tables.spares.set m.target .assigned).set c .failed
    let found := reports.foldl (fun t r => match r.decoded with
      | some (.corrected b, _) => t.handOn
          { kind := .corrected, source := .migration, tag, line, word := r.index, bit := b.val } (.corrected b) none
      | some (.uncorrectable, _) => t.handOn
          { kind := .uncorrectable, source := .migration, tag, line, word := r.index } .uncorrectable none
      | some (.poisoned, _) | some (.good, _) | none => t) s
    let failed := match m.old with
      | none => found
      | some c => found.offer { kind := .spareFailed, source := .migration, tag, frame := m.frame, spare := some c }
    let done := failed.offer { kind := .retireDone, source := .migration, tag, frame := m.frame, spare := some m.target
                               cause := m.origin == .auto && m.cause == .uncorrectable, count := poisonedLines }
    let suspects := fun (st : Nat → Option RetireState) => s.tables.suspects.map fun p => match p with
      | none => none
      | some e => if e.frame = m.frame then none else some { e with retire := (st e.frame).getD e.retire }
    ∃ (u : State) (more : List Completion), exec .copyStepEnd s = .next u.conclude
      ∧ u.admission = { s.admission with backlog := s.admission.backlog ++ (match m.origin with
          | .auto => []
          | .command tag => [⟨tag, 5#4, if poisonedLines = 0 then .success else .dataErrors, 64, corrected,
              uncorrectable, poisonedWords, BitVec.ofNat 28 (m.target % 64 + poisonedLines % 128 * 256), true⟩]) ++ more }
      ∧ u.tables.suspectOf m.frame = none ∧ u.tables.regions = s.tables.regions
      ∧ u.tables.evictionPointer = s.tables.evictionPointer
      ∧ u.arbiter = { s.arbiter with tenure := none } ∧ u.memory = s.memory ∧ u.port = s.port ∧ u.engine = s.engine
      ∧ u.patrol = s.patrol ∧ u.pending = s.pending
      ∧ (s.tables.retireQueue = [] →
        u.tables.entryOf m.frame = some ⟨m.frame, .active m.target⟩
        ∧ (∀ frame, frame ≠ m.frame → u.tables.entryOf frame = s.tables.entryOf frame)
        ∧ u.tables.spares = spares ∧ u.tables.migration = none ∧ u.tables.retireQueue = [] ∧ u.news = done.news
        ∧ u.tables.suspects = suspects (fun _ => none) ∧ more = [])
      ∧ (∀ r rest t, s.tables.retireQueue = r :: rest → r.frame ≠ m.frame → s.engine.state.retires = true →
        spares[t]? = some .free → (∀ j < t, spares[j]? ≠ some .free) →
        let old := (s.tables.entryOf r.frame).bind fun e => e.state.current?
        u.tables.entryOf m.frame = some ⟨m.frame, .active m.target⟩
        ∧ u.tables.entryOf r.frame = some ⟨r.frame, .migrating old t 0⟩
        ∧ (∀ frame, frame ≠ m.frame → frame ≠ r.frame → u.tables.entryOf frame = s.tables.entryOf frame)
        ∧ u.tables.spares = spares.set t .target ∧ u.tables.retireQueue = rest
        ∧ u.tables.migration = some ⟨r.frame, r.origin, r.cause, t, old, 0, 0, 0, 0, .waiting⟩
        ∧ u.news = (done.offer { kind := .retireStarted, source := .migration, frame := r.frame, spare := some t
                                 tag := match r.origin with
                                   | .auto => none
                                   | .command tag => some tag
                                 cause := r.origin == .auto && r.cause == .uncorrectable }).news
        ∧ u.tables.suspects = suspects (fun frame => if frame = r.frame then some .migrating else none) ∧ more = [])
      ∧ (s.engine.state.retires = true → (∀ t : Nat, spares[t]? ≠ some .free) →
        u.tables.entryOf m.frame = some ⟨m.frame, .active m.target⟩
        ∧ (∀ frame, frame ≠ m.frame → u.tables.entryOf frame = s.tables.entryOf frame)
        ∧ u.tables.spares = spares ∧ u.tables.migration = none ∧ u.tables.retireQueue = []
        ∧ u.news = (s.tables.retireQueue.foldl (fun t r => t.offer
            { kind := .retireRefused, source := .migration, frame := r.frame
              tag := match r.origin with
                | .auto => none
                | .command tag => some tag }) done).news
        ∧ u.tables.suspects = suspects (fun frame =>
            if s.tables.retireQueue.any (·.frame == frame) then some .refused else none)
        ∧ more = s.tables.retireQueue.filterMap fun r => match r.origin with
            | .auto => none
            | .command tag => some ⟨tag, 5#4, .noSpare, 0, 0, 0, 0, 0#28, true⟩)

/-! ### Detections, suspects and the patrol (spec 06) -/

/-- A detection entered is counted, whatever else it starts: the frame has an entry with the detection's last word and
the count raised by 1 and saturating at 255, or allocated at 1; a pinned entry of another frame is never lost while any
place is free or unpinned (R90 to R93). An update stays in its place, and the eviction pointer moves on exactly if it names
that place (R91); a new entry takes the lowest free place, and the pointer moves on from where it is (R92); in a full table
it takes the first unpinned place from the pointer on, which moves on from there (R93). Every other place keeps its entry.
The retire state stands (R91), or starts as the frame is migrating, queued or neither (R92), unless R95 offers the frame. An
entry is pinned while QUEUED or MIGRATING (R89). -/
def Obligations.DetectionIsCounted : Prop :=
  (∀ (t : Tables) (frame : Nat),
    (∀ i e, placeAt t.suspects i = some e ↔ t.suspects[i]? = some (some e))
    ∧ (∀ e : SuspectEntry, e.pinned = true ↔ e.retire = .queued ∨ e.retire = .migrating)
    ∧ (t.suspectOf frame = none ↔ ∀ e, some e ∈ t.suspects → e.frame ≠ frame)
    ∧ (∀ e, t.suspectOf frame = some e → e.frame = frame ∧ some e ∈ t.suspects))
  ∧ ∀ (s : State) (line word : Nat) (uncorrectable : Bool), s.tables.suspects.length = 32 →
    s.tables.evictionPointer < 32 →
    let t := s.enterDetection line word uncorrectable
    let frame := line / 64
    let pointer := s.tables.evictionPointer
    let contents := fun (p : Option SuspectEntry) => p.map fun e =>
      (e.frame, e.corrected, e.uncorrectable, e.lastLine, e.lastWord)
    let enters := fun (i next : Nat) (e : SuspectEntry) =>
      contents (placeAt t.tables.suspects i) = contents (some e)
      ∧ (∀ j, j ≠ i → contents (placeAt t.tables.suspects j) = contents (placeAt s.tables.suspects j))
      ∧ t.tables.evictionPointer = next
      ∧ (s.engine.state.retires = false ∨ (s.tables.attributesOfFrame frame).autoRetire = false ∨ e.retire ≠ .none
          ∨ (e.corrected < s.engine.threshold ∧ e.uncorrectable = 0) →
        t.tables.suspects = s.tables.suspects.set i (some e))
    let new : SuspectEntry := {
      frame, corrected := if uncorrectable then 0 else 1, uncorrectable := if uncorrectable then 1 else 0
      lastLine := line, lastWord := word
      retire := if s.tables.migratingFrame = some frame then .migrating
        else if s.tables.retireQueue.any (·.frame == frame) then .queued else .none }
    (∃ e, t.tables.suspectOf (line / 64) = some e ∧ e.frame = line / 64 ∧ e.lastLine = line ∧ e.lastWord = word
      ∧ (match s.tables.suspectOf (line / 64) with
        | none => e.corrected = (if uncorrectable then 0 else 1) ∧ e.uncorrectable = (if uncorrectable then 1 else 0)
        | some old =>
          e.corrected = (if uncorrectable then old.corrected else min 255 (old.corrected + 1))
          ∧ e.uncorrectable = (if uncorrectable then min 255 (old.uncorrectable + 1) else old.uncorrectable)))
    ∧ (∀ frame e, frame ≠ line / 64 → s.tables.suspectOf frame = some e → e.pinned = true →
        (∃ i < 32, (placeAt s.tables.suspects i).all (fun x => !x.pinned) = true) →
        (t.tables.suspectOf frame).map (fun x => (x.corrected, x.uncorrectable)) = some (e.corrected, e.uncorrectable))
    ∧ (∀ i old, placeAt s.tables.suspects i = some old → old.frame = frame →
        (∀ j < i, ∀ e, placeAt s.tables.suspects j = some e → e.frame ≠ frame) →
        enters i (if pointer = i then (pointer + 1) % 32 else pointer) { old with
          corrected := if uncorrectable then old.corrected else min 255 (old.corrected + 1)
          uncorrectable := if uncorrectable then min 255 (old.uncorrectable + 1) else old.uncorrectable
          lastLine := line, lastWord := word })
    ∧ (s.tables.suspectOf frame = none →
      (∀ i < 32, placeAt s.tables.suspects i = none → (∀ j < i, placeAt s.tables.suspects j ≠ none) →
        enters i ((pointer + 1) % 32) new)
      ∧ (∀ k < 32, (∀ i < 32, placeAt s.tables.suspects i ≠ none) →
        (∀ j < k, (placeAt s.tables.suspects ((pointer + j) % 32)).any (·.pinned) = true) →
        (placeAt s.tables.suspects ((pointer + k) % 32)).any (·.pinned) = false →
        enters ((pointer + k) % 32) ((pointer + k + 1) % 32) new))

/-- A detection offers its frame for retirement exactly when R95's four conditions hold after the update, whether the entry
is new or was there: the engine retires, AUTO_RETIRE, retire state NONE, and a lost word or the threshold met; the cause is
UNCORRECTABLE if the uncorrectable count is at least 1, else THRESHOLD. A lost word found in a frame that may be retired
starts its migration in the same happening: spare t is TARGET, the entry is MIGRATING with cursor 0 and keeps a current
spare, the unit copies, RETIRE_STARTED is offered after the tables changed, and the suspect entry is MIGRATING; with no
FREE spare the offer is refused NO_SPARE and the entry REFUSED; behind a migration the request joins the tail, QUEUED; a
full queue refuses it QUEUE_FULL and the entry stays NONE. Otherwise no offer is made (R68, R72 to R74, R95, R96). -/
def Obligations.LostWordStartsRetirement : Prop :=
  (∀ e : EngineState, e.retires = true ↔ e ≠ .off ∧ e ≠ .starting)
  ∧ ∀ (s : State) (line word corrected lost : Nat) (uncorrectable : Bool), s.tables.suspects.length = 32 →
    s.tables.evictionPointer < 32 →
    let frame := line / 64
    let retire := ((s.tables.suspectOf frame).map (·.retire)).getD .none
    let retiring := s.tables.migratingFrame = some frame ∨ ∃ r ∈ s.tables.retireQueue, r.frame = frame
    corrected = (if uncorrectable then ((s.tables.suspectOf frame).map (·.corrected)).getD 0
      else min 255 (((s.tables.suspectOf frame).map (·.corrected)).getD 0 + 1)) →
    lost = (if uncorrectable then min 255 (((s.tables.suspectOf frame).map (·.uncorrectable)).getD 0 + 1)
      else ((s.tables.suspectOf frame).map (·.uncorrectable)).getD 0) →
    let u := s.enterDetection line word uncorrectable
    let cause : Cause := if 1 ≤ lost then .uncorrectable else .threshold
    let old := (s.tables.entryOf frame).bind fun e => e.state.current?
    let stands := u.tables.remap = s.tables.remap ∧ u.tables.spares = s.tables.spares
      ∧ u.tables.migration = s.tables.migration ∧ u.admission = s.admission
    (s.engine.state.retires = true → (s.tables.attributesOfFrame frame).autoRetire = true → retire = .none → ¬retiring →
      s.engine.threshold ≤ corrected ∨ 1 ≤ lost →
      (∀ t, s.tables.migration = none → s.tables.retireQueue = [] → s.tables.spares[t]? = some .free →
        (∀ k < t, s.tables.spares[k]? ≠ some .free) →
        u.tables.migration = some ⟨frame, .auto, cause, t, old, 0, 0, 0, 0, .waiting⟩
        ∧ u.tables.entryOf frame = some ⟨frame, .migrating old t 0⟩
        ∧ (∀ f, f ≠ frame → u.tables.entryOf f = s.tables.entryOf f)
        ∧ u.tables.spares = s.tables.spares.set t .target ∧ u.tables.retireQueue = []
        ∧ (u.tables.suspectOf frame).map (·.retire) = some .migrating
        ∧ u.news = (s.offer { kind := .retireStarted, source := .migration, frame, spare := some t
                              cause := cause == .uncorrectable }).news
        ∧ u.admission = s.admission)
      ∧ (s.tables.migration = none → s.tables.retireQueue = [] → (∀ k : Nat, s.tables.spares[k]? ≠ some .free) →
        stands ∧ u.tables.retireQueue = [] ∧ (u.tables.suspectOf frame).map (·.retire) = some .refused
        ∧ u.news = (s.offer { kind := .retireRefused, source := .migration, frame }).news)
      ∧ (s.tables.migration.isSome = true → s.tables.retireQueue.length < 8 →
        stands ∧ u.tables.retireQueue = s.tables.retireQueue ++ [⟨frame, .auto, cause⟩]
        ∧ (u.tables.suspectOf frame).map (·.retire) = some .queued ∧ u.news = s.news)
      ∧ (8 ≤ s.tables.retireQueue.length →
        stands ∧ u.tables.retireQueue = s.tables.retireQueue ∧ (u.tables.suspectOf frame).map (·.retire) = some .none
        ∧ u.news = (s.offer { kind := .retireRefused, source := .migration, frame, cause := true }).news))
    ∧ (s.engine.state.retires = false ∨ (s.tables.attributesOfFrame frame).autoRetire = false ∨ retire ≠ .none ∨ retiring
        ∨ (corrected < s.engine.threshold ∧ lost = 0) →
      stands ∧ u.tables.retireQueue = s.tables.retireQueue ∧ u.news = s.news)

/-- Decay at a pass end halves every count and removes exactly the unpinned entries whose counts are both 0; frames,
last words, retire states and the pointer stand (R97). -/
def Obligations.DecayHalvesEveryCount : Prop :=
  ∀ (t : Tables) (i : Nat),
    (placeAt t.suspects i = none → placeAt t.decay.suspects i = none)
    ∧ (∀ e, placeAt t.suspects i = some e →
      placeAt t.decay.suspects i =
        if e.corrected < 2 ∧ e.uncorrectable < 2 ∧ (e.retire = .none ∨ e.retire = .refused) then none
        else some { e with corrected := e.corrected / 2, uncorrectable := e.uncorrectable / 2 })
    ∧ t.decay = { t with suspects := t.decay.suspects }

/-- PATROL_EXPIRY: an idle active patrol rests its cursor on the first line with PATROL from the cursor on and asks for
it, as a Repair Read if the same lookup gives REPAIR; if there is none up to the last host line the pass ends; an
expiry that finds it busy is absorbed (R102, R104). That one which finds the patrol inactive changes nothing is the
model's choice (log 5). -/
def Obligations.PatrolExpiryFindsTheNextLine : Prop :=
  ∀ s : State, s.resetAsserted = false →
    (s.patrol.enabled = true → s.engine.state.posts = true → s.patrol.phase = .idle →
      (∀ line, s.patrol.cursor ≤ line → line < s.straps.hostLines → (s.tables.attributesOfLine line).patrol = true →
        (∀ l, s.patrol.cursor ≤ l → l < line → (s.tables.attributesOfLine l).patrol = false) →
        exec .patrolExpiry s = .next (s.withPatrol { s.patrol with
          cursor := line, phase := .waiting line (s.tables.attributesOfLine line).repair }).conclude)
      ∧ ((∀ l, s.patrol.cursor ≤ l → l < s.straps.hostLines → (s.tables.attributesOfLine l).patrol = false) →
        exec .patrolExpiry s = .next (State.conclude
          (((s.offer { kind := .patrolPass, source := .patrol }).withTables s.tables.decay).withPatrol
            { s.patrol with cursor := 0 }))))
    ∧ (s.patrol.phase ≠ .idle → exec .patrolExpiry s = .next s)
    ∧ (s.patrol.enabled = false ∨ s.engine.state.posts = false → exec .patrolExpiry s = .next s)

/-- PATROL_TENURE_END: the detections are handed on in order with source PATROL and no tag, the patrol is IDLE, the cursor
is the line after the tenure line, or the pass ends after the last host line; a disowned tenure moves no cursor and ends no
pass (R103). -/
def Obligations.PatrolTenureEndMovesOn : Prop :=
  ∀ (s : State) (line : Nat) (reports : List WordReport), s.resetAsserted = false →
    s.arbiter.tenure = some ⟨.patrolStep, line, reports, false⟩ →
    let free := s.withArbiter { s.arbiter with tenure := none }
    let u := reports.foldl (handedOn .patrol none line) free
    Accounted free u
    ∧ (s.patrol.disowned = true →
        exec .patrolTenureEnd s = .next (u.withPatrol { s.patrol with phase := .idle, disowned := false }).conclude)
    ∧ (s.patrol.disowned = false → line + 1 < s.straps.hostLines →
        exec .patrolTenureEnd s = .next (u.withPatrol { s.patrol with phase := .idle, cursor := line + 1 }).conclude)
    ∧ (s.patrol.disowned = false → s.straps.hostLines ≤ line + 1 →
        exec .patrolTenureEnd s = .next (State.conclude
          (((u.offer { kind := .patrolPass, source := .patrol }).withTables u.tables.decay).withPatrol
            { s.patrol with phase := .idle, cursor := 0 })))

/-! ### Admission and slots (spec 08, 09) -/

/-- INVARIANT. No two commands in the tag set carry the same tag, and the live count never exceeds 32. The live commands are
those in the pending list and in the slots, RETIREs queued or migrating, those whose completion stands in the backlog, and
ABORTs held behind a slot; the tag set holds the tags of those accepted (R128). -/
def Obligations.StepsKeepTagsDistinctAndLiveBound : Prop :=
  (∀ s t : State, s.LiveLaws → step s = .next t → t.LiveLaws)
  ∧ (∀ (s : State) (tag : Tag), tag ∈ s.tagSet ↔ (∃ p ∈ s.admission.pendingList, p.tag = tag)
      ∨ (∃ sl, some sl ∈ s.admission.slots ∧ (sl.tag = tag ∨ sl.abortedBy = some tag))
      ∨ (∃ r ∈ s.tables.retireQueue, r.origin = .command tag)
      ∨ (∃ m, s.tables.migration = some m ∧ m.origin = .command tag)
      ∨ (∃ c ∈ s.admission.backlog, c.accepted = true ∧ c.tag = tag))
  ∧ (∀ s : State, s.liveCount = s.admission.pendingList.length
      + (s.admission.slots.map fun p => match p with
          | none => 0
          | some sl => if sl.abortedBy.isSome then 2 else 1).sum
      + (s.tables.retireQueue.filter fun r => r.origin != .auto).length
      + (s.tables.migration.toList.filter fun m => m.origin != .auto).length + s.admission.backlog.length)

/-- INVARIANT. The Write Post Buffer, the Retire Queue, the event list and the pending list stay within their places, and
the guard count, the last slot and the eviction pointer in their ranges (R23, R24, R35, R66, R89, R134, R169). The tables
keep their sizes, S spares among them (R43, R48, R89, R138), the head of the buffer is no register entry (R31, R41), and every host line and frame the part holds stays in host
memory, the Remap Table's frames among them (R1, R29, R50, R111, R113, R131). -/
def Obligations.StepsKeepQueuesAndCountersBounded : Prop :=
  (∀ s t : State, s.QueuesBounded → s.CountersBounded → step s = .next t → t.QueuesBounded ∧ t.CountersBounded)
  ∧ (∀ s t : State, s.Shaped → step s = .next t → t.Shaped)
  ∧ (∀ s t : State, s.port.headIsMemory → step s = .next t → t.port.headIsMemory)
  ∧ (∀ s t : State, s.AddressesInRange → step s = .next t → t.AddressesInRange)

/-- INVARIANT. No two occupied slots conflict, and a conflict is what R136 says: a line in one's write set and in the
other's read or write set, the sets being those of R136's table. -/
def Obligations.OccupiedSlotsNeverConflict : Prop :=
  (∀ a b : SlotCommand, a.conflicts b = true ↔ ∃ line : Nat,
    let inSet := fun (set : Option (Nat × Nat)) => ∃ r, set = some r ∧ r.1 ≤ line ∧ line < r.1 + r.2
    (inSet a.writeSet ∧ (inSet b.readSet ∨ inSet b.writeSet)) ∨ (inSet a.readSet ∧ inSet b.writeSet))
  ∧ (∀ c : SlotCommand, (c.readSet, c.writeSet) = match c with
    | .scrub first length _ => (some (first, length), some (first, length))
    | .verify first length => (some (first, length), none)
    | .fill first length _ => (none, some (first, length))
    | .copy source destination length => (some (source, length), some (destination, length)))
  ∧ (∀ s t : State, s.SlotsCompatible → step s = .next t → t.SlotsCompatible)

/-- A record is judged by R131's four checks in their order, and a refused one answers with one completion, no place in
the tag set and nothing else changed. Check 2 of every kind (lengths of 1 to 16,777,216, COPY's ranges apart, spares below S,
a region's index, exponent and alignment, a patrol interval that is not 0) and check 3 (ranges and frames within host
memory) compare the fields at their full values (R131, R179). Of the fetched words, the tag and the kind are those of 11.3;
kind codes 0, 14 and 15 and no others name no command, every other names the command of that code; and bits that 11.3 gives
the kind no field in, the reserved ones among them, are not examined: they may hold any value (R179). -/
def Obligations.RecordsAreJudgedInOrder : Prop :=
  (∀ (s : State) (r : CommandRecord),
    let refuse := fun (st : Status) => s.withAdmission { s.admission with
      backlog := s.admission.backlog ++ [⟨r.tag, r.kind, st, 0, 0, 0, 0, 0#28, false⟩] }
    (r.command = none → s.takeRecord r = refuse .invalidCommand)
    ∧ (∀ c, r.command = some c →
      (c.fieldsOk s.straps.spareFrames = false → s.takeRecord r = refuse .invalidField)
      ∧ (c.fieldsOk s.straps.spareFrames = true → c.addressesOk s.straps.hostFrames = false →
          s.takeRecord r = refuse .badAddress)
      ∧ (c.fieldsOk s.straps.spareFrames = true → c.addressesOk s.straps.hostFrames = true → r.tag ∈ s.tagSet →
          s.takeRecord r = refuse .duplicateTag)))
  ∧ (∀ (c : Command) (spares : Nat), c.fieldsOk spares = true ↔ match c with
    | .slot (.scrub _ length _) | .slot (.verify _ length) | .slot (.fill _ length _) => 1 ≤ length ∧ length ≤ 16777216
    | .slot (.copy source destination length) => 1 ≤ length ∧ length ≤ 16777216
        ∧ ¬∃ line : Nat, (source ≤ line ∧ line < source + length) ∧ destination ≤ line ∧ line < destination + length
    | .install _ spare | .withdrawSpare spare => spare < spares
    | .setRegion index valid base exponent _ =>
      index < 8 ∧ (valid = true → 20 ≤ exponent ∧ exponent ≤ 34 ∧ 2 ^ exponent ∣ base)
    | .setPatrol _ interval _ => interval ≠ 0#16
    | .retire _ | .query _ | .clearSuspect _ | .fence | .abort _ => True)
  ∧ (∀ (c : Command) (hostFrames : Nat), c.addressesOk hostFrames = true ↔ match c with
    | .slot (.scrub first length _) | .slot (.verify first length) | .slot (.fill first length _) =>
      first + length ≤ hostFrames * 64
    | .slot (.copy source destination length) =>
      source + length ≤ hostFrames * 64 ∧ destination + length ≤ hostFrames * 64
    | .retire frame | .install frame _ | .query frame | .clearSuspect frame => frame < hostFrames
    | .withdrawSpare _ | .setRegion _ _ _ _ _ | .setPatrol _ _ _ | .fence | .abort _ => True)
  ∧ (∀ words : List DataWord,
    let r := recordOfWords words
    r.tag = (words.getD 0 0#64).extractLsb' 0 16 ∧ r.kind = (words.getD 0 0#64).extractLsb' 16 4
    ∧ (r.command = none ↔ r.kind = 0#4 ∨ r.kind = 14#4 ∨ r.kind = 15#4)
    ∧ (∀ c, r.command = some c → c.kindCode = r.kind)
    ∧ ∀ others : List DataWord,
      (∀ i < 8, others.getD i 0#64 &&& (usedBits r.kind).getD i 0#64
        = words.getD i 0#64 &&& (usedBits r.kind).getD i 0#64) →
      recordOfWords others = r)

/-- An accepted record other than an ABORT joins the TAIL of the pending list, behind all that stands there, and the head is
judged for issue in the same happening (R131, R134, R135); every command row presents its record so, and one for which
admission has no place changes nothing (both the model's, log 7; the places are those of R129). SCRUB, VERIFY,
FILL and COPY with nothing ahead of them: the command takes the lowest-numbered empty slot if no occupied slot conflicts, with
its first request waiting; otherwise it stands in the list (R134, R136, R138). From that list only the head issues, while the
engine is RUNNING or QUIESCING and as long as each head in its turn may: a slot command by R136, FENCE when every slot is
empty, any other at once (R134, R135, R137). -/
def Obligations.SlotCommandsIssueOrWait : Prop :=
  (∀ s : State, s.admits = true ↔ s.resetAsserted = false ∧ (s.engine.state = .running ∨ s.engine.state = .quiescing)
    ∧ s.admission.pendingList.length < 16 ∧ s.liveCount < 32 ∧ s.fetchInTenure = false)
  ∧ (∀ (c : Instr) (tag : Tag) (sc : SlotCommand) (s : State), s.admits = true → s.admission.pendingList = [] →
    ((∃ f l p, c = .scrub tag f l p ∧ sc = .scrub f.toNat l.toNat p)
      ∨ (∃ f l, c = .verify tag f l ∧ sc = .verify f.toNat l.toNat)
      ∨ (∃ f l d, c = .fill tag f l d ∧ sc = .fill f.toNat l.toNat d)
      ∨ (∃ a b l, c = .copy tag a b l ∧ sc = .copy a.toNat b.toNat l.toNat)) →
    (Command.slot sc).fieldsOk s.straps.spareFrames = true → (Command.slot sc).addressesOk s.straps.hostFrames = true →
    tag ∉ s.tagSet →
    (∀ k, k < s.admission.slots.length → s.slotAt k = none → (∀ j < k, s.slotAt j ≠ none) →
      (∀ j sl, s.slotAt j = some sl → sl.command.conflicts sc = false) →
      exec c s = .next (s.withAdmission { s.admission with
        slots := s.admission.slots.set k (some ⟨tag, sc, 0, 0, 0, 0, none, .waiting, none⟩) }).conclude)
    ∧ ((∀ k, k < s.admission.slots.length → s.slotAt k ≠ none)
        ∨ (∃ j sl, s.slotAt j = some sl ∧ sl.command.conflicts sc = true) →
      exec c s = .next (s.withAdmission { s.admission with pendingList := [⟨tag, .slot sc⟩] }).conclude))
  ∧ (∀ s : State, (s.admission.pendingList = [] ∨ ¬(s.engine.state = .running ∨ s.engine.state = .quiescing) →
      s.issueAll = s)
    ∧ ∀ p rest, s.admission.pendingList = p :: rest → s.engine.state = .running ∨ s.engine.state = .quiescing →
      let may : Prop := match p.command with
        | .slot sc => (∃ k < s.admission.slots.length, s.slotAt k = none)
            ∧ ∀ j sl, s.slotAt j = some sl → sl.command.conflicts sc = false
        | .fence => ∀ k, s.slotAt k = none
        | _ => True
      (may → s.issueAll
        = ((s.withAdmission { s.admission with pendingList := rest }).issueCommand p.tag p.command).issueAll)
      ∧ (¬may → s.issueAll = s) ∧ (s.mayIssue p.command = true ↔ may))
  ∧ (∀ (s : State) (r : CommandRecord) (c : Command), r.command = some c → c.fieldsOk s.straps.spareFrames = true →
    c.addressesOk s.straps.hostFrames = true → r.tag ∉ s.tagSet → (∀ target, c ≠ .abort target) →
    let joined := s.withAdmission { s.admission with pendingList := s.admission.pendingList ++ [⟨r.tag, c⟩] }
    s.takeRecord r = joined.issueAll
    ∧ (∀ p rest, s.admission.pendingList = p :: rest → s.mayIssue p.command = false → s.takeRecord r = joined))
  ∧ (∀ (i : Instr) (tag : Tag) (c : Command) (s : State),
    ((∃ f l p, i = .scrub tag f l p ∧ c = .slot (.scrub f.toNat l.toNat p))
      ∨ (∃ f l, i = .verify tag f l ∧ c = .slot (.verify f.toNat l.toNat))
      ∨ (∃ f l d, i = .fill tag f l d ∧ c = .slot (.fill f.toNat l.toNat d))
      ∨ (∃ a b l, i = .copy tag a b l ∧ c = .slot (.copy a.toNat b.toNat l.toNat))
      ∨ (∃ f, i = .retire tag f ∧ c = .retire f.toNat)
      ∨ (∃ f k, i = .install tag f k ∧ c = .install f.toNat k.toNat)
      ∨ (∃ k, i = .withdrawSpare tag k ∧ c = .withdrawSpare k.toNat)
      ∨ (∃ f, i = .query tag f ∧ c = .query f.toNat)
      ∨ (∃ f, i = .clearSuspect tag f ∧ c = .clearSuspect f.toNat)
      ∨ (∃ k v b n a, i = .setRegion tag k v b n a ∧ c = .setRegion k.toNat v b.toNat n.toNat
          ⟨a.getLsbD 0, a.getLsbD 1, a.getLsbD 2, a.getLsbD 3⟩)
      ∨ (∃ e n r, i = .setPatrol tag e n r ∧ c = .setPatrol e n r)
      ∨ (i = .fence tag ∧ c = .fence) ∨ (∃ target, i = .abort tag target ∧ c = .abort target)) →
    (s.admits = true → exec i s = .next (s.takeRecord ⟨tag, c.kindCode, some c⟩).conclude)
    ∧ (s.admits = false → exec i s = .next s))

/-- SLOT_TENURE_END: the detections are handed on in order with the command's source and tag; each of the three counts rises
by the words of its class and stops at 65,535; the progress rises by 1 for a finished line, COPY's source read leaves a held
line; and the slot raises its next request, is held in HALTED, completes at its length (DATA_ERRORS if it met a lost word,
but FILL), or ends an abort with both completions in order; a slot that ends has the head of the pending list judged for
issue. FILL and COPY's write decode nothing (R133, R135, R139, R146, R147, R153). -/
def Obligations.SlotTenureEndStepsOrCompletes : Prop :=
  ∀ (s : State) (k line : Nat) (sl : Slot) (reports : List WordReport), s.resetAsserted = false →
    s.arbiter.tenure = some ⟨.slotStep k, line, reports, false⟩ → s.slotAt k = some sl →
    (∀ f l d, sl.command = .fill f l d → ∀ r ∈ reports, ∀ d, r.decoded = some d → d.1 = .good) →
    let source : Source := match sl.command with
      | .scrub _ _ _ => .scrub
      | .verify _ _ => .verify
      | .fill _ _ _ | .copy _ _ _ => .copy
    let length := match sl.command with
      | .scrub _ n _ | .verify _ n | .fill _ n _ | .copy _ _ n => n
    let free := s.withArbiter { s.arbiter with tenure := none }
    let u := reports.foldl (handedOn source (some sl.tag) line) free
    let raised := fun (count : Nat) (f : DecodeClass → Bool) =>
      min 65535 (count + (reports.filter fun r : WordReport => r.decoded.any fun d => f d.1).length)
    let corrected := raised sl.corrected fun
      | .corrected _ => true
      | _ => false
    let uncorrectable := raised sl.uncorrectable (· == .uncorrectable)
    let poisoned := raised sl.poisoned (· == .poisoned)
    let counted := { sl with corrected := corrected, uncorrectable := uncorrectable, poisoned := poisoned }
    let sl' := match sl.command, sl.heldLine with
      | .copy _ _ _, none => { counted with heldLine := some (reports.filterMap WordReport.decoded) }
      | .copy _ _ _, some _ => { counted with progress := sl.progress + 1, heldLine := none }
      | _, _ => { counted with progress := sl.progress + 1 }
    let ended := fun (cs : List Completion) => (u.withAdmission { u.admission with
      slots := s.admission.slots.set k none, backlog := u.admission.backlog ++ cs }).issueAll
    let report := fun (st : Status) => (⟨sl.tag, sl.command.kindCode, st, sl'.progress, corrected, uncorrectable,
      poisoned, 0#28, true⟩ : Completion)
    Accounted free u
    ∧ ((∀ r ∈ reports, ∀ d, r.decoded = some d → d.1 = .good) → u = free)
    ∧ (∀ tag, sl.abortedBy = some tag → exec .slotTenureEnd s
        = .next (ended [report .aborted, ⟨tag, 13#4, .success, 0, 0, 0, 0, 0#28, true⟩]).conclude)
    ∧ (sl.abortedBy = none → length ≤ sl'.progress → exec .slotTenureEnd s
        = .next (ended [report (match sl.command with
            | .fill _ _ _ => .success
            | _ => if uncorrectable + poisoned = 0 then .success else .dataErrors)]).conclude)
    ∧ (sl.abortedBy = none → sl'.progress < length → exec .slotTenureEnd s
        = .next (u.withAdmission { u.admission with
            slots := s.admission.slots.set k
              (some { sl' with phase := if s.engine.state = .halted then .held else .waiting }) }).conclude)

/-- RETIRE, presented to admission as log 7 says, with nothing ahead of it: CONFLICT for a frame that is migrating or
queued, QUEUE_FULL at 8 requests, NO_SPARE when the unit is IDLE and no spare is FREE, else the migration starts on the
lowest FREE spare, or the request waits behind the migration in progress (R67, R72, R73, R74, R158). -/
def Obligations.RetireOutcomes : Prop :=
  ∀ (tag : Tag) (frame : BitVec 32) (s : State), s.admits = true → s.admission.pendingList = [] →
    frame.toNat < s.straps.hostFrames → tag ∉ s.tagSet → s.RetirementLaws →
    let f := frame.toNat
    let busy := s.tables.migratingFrame = some f ∨ ∃ r ∈ s.tables.retireQueue, r.frame = f
    let done := fun (st : Status) => s.withAdmission { s.admission with
      backlog := s.admission.backlog ++ [⟨tag, 5#4, st, 0, 0, 0, 0, 0#28, true⟩] }
    (busy → exec (.retire tag frame) s = .next (done .conflict).conclude)
    ∧ (¬busy → 8 ≤ s.tables.retireQueue.length → exec (.retire tag frame) s = .next (done .queueFull).conclude)
    ∧ (¬busy → s.tables.retireQueue.length < 8 → (∃ m, s.tables.migration = some m) →
        exec (.retire tag frame) s = .next (s.withTables { s.tables with
          retireQueue := s.tables.retireQueue ++ [⟨f, .command tag, .command⟩]
          suspects := s.tables.suspects.map (Option.map fun e => if e.frame = f then { e with retire := .queued } else e)
        }).conclude)
    ∧ (¬busy → s.tables.migration = none → (∀ k : Nat, s.tables.spares[k]? ≠ some .free) →
        exec (.retire tag frame) s = .next (((done .noSpare).offer
          { kind := .retireRefused, source := .migration, tag := some tag, frame := f }).withTables { s.tables with
            suspects := s.tables.suspects.map (Option.map fun e => if e.frame = f then { e with retire := .refused } else e)
          }).conclude)
    ∧ (¬busy → s.tables.migration = none → ∀ k : Nat, s.tables.spares[k]? = some .free →
        (∀ j < k, s.tables.spares[j]? ≠ some .free) →
        let old := (s.tables.entryOf f).bind fun e => e.state.current?
        exec (.retire tag frame) s = .next ((s.offer
          { kind := .retireStarted, source := .migration, tag := some tag, frame := f, spare := some k }).withTables
          { s.tables.putEntry f (.migrating old k 0) with
            spares := s.tables.spares.set k .target
            migration := some ⟨f, .command tag, .command, k, old, 0, 0, 0, 0, .waiting⟩
            suspects := s.tables.suspects.map (Option.map fun e => if e.frame = f then { e with retire := .migrating } else e)
          }).conclude)

/-- INSTALL, presented to admission as log 7 says, with nothing ahead of it: refused CONFLICT, changing nothing, when
the spare is not FREE, the frame has an entry or the Retire Queue holds a request for it; otherwise an ACTIVE entry and
an ASSIGNED spare; its completion carries both as given (R56, R57, R159). An entry put into the Remap Table is its frame's
one entry, and every other frame keeps its own (R50, R51). -/
def Obligations.InstallOutcomes : Prop :=
  (∀ (t : Tables) (frame : Nat) (st : RemapState), t.putEntry frame st = { t with remap := (t.putEntry frame st).remap }
    ∧ (∀ f, (t.putEntry frame st).entryOf f = if f = frame then some ⟨frame, st⟩ else t.entryOf f)
    ∧ (∀ e, e ∈ (t.putEntry frame st).remap ↔ e = ⟨frame, st⟩ ∨ (e ∈ t.remap ∧ e.frame ≠ frame)))
  ∧ ∀ (tag : Tag) (frame : BitVec 32) (spare : BitVec 16) (s : State), s.admits = true → s.admission.pendingList = [] →
    frame.toNat < s.straps.hostFrames → spare.toNat < s.straps.spareFrames → tag ∉ s.tagSet →
    let done := fun (st : Status) => s.withAdmission { s.admission with backlog := s.admission.backlog ++
      [⟨tag, 6#4, st, 0, 0, 0, 0, BitVec.ofNat 28 (spare.toNat % 64 + frame.toNat % 2 ^ 22 * 64), true⟩] }
    let refused := s.tables.spares[spare.toNat]? ≠ some .free ∨ s.tables.entryOf frame.toNat ≠ none
      ∨ ∃ r ∈ s.tables.retireQueue, r.frame = frame.toNat
    (refused → exec (.install tag frame spare) s = .next (done .conflict).conclude)
    ∧ (¬refused → exec (.install tag frame spare) s = .next ((done .success).withTables
        { s.tables.putEntry frame.toNat (.active spare.toNat) with
          spares := s.tables.spares.set spare.toNat .assigned }).conclude)

/-- WITHDRAW_SPARE, presented to admission as log 7 says, with nothing ahead of it: a FREE spare becomes FAILED and the
command completes SUCCESS; any other is left as it is, with CONFLICT; the completion carries the spare and the state it
had. An index of S or above is refused with INVALID_FIELD. A withdrawn spare is no longer one that an allocation or an
INSTALL takes: an allocation takes the lowest-numbered FREE one (R49, R58, R160). -/
def Obligations.WithdrawSpareOutcomes : Prop :=
  (∀ (t : Tables) (k : Nat), t.lowestFreeSpare = some k
    ↔ t.spares[k]? = some .free ∧ ∀ j < k, t.spares[j]? ≠ some .free)
  ∧ ∀ (tag : Tag) (spare : BitVec 16) (s : State), s.admits = true → s.admission.pendingList = [] →
    let post := fun (c : Completion) => s.withAdmission { s.admission with backlog := s.admission.backlog ++ [c] }
    (s.straps.spareFrames ≤ spare.toNat → exec (.withdrawSpare tag spare) s
        = .next (post ⟨tag, 7#4, .invalidField, 0, 0, 0, 0, 0#28, false⟩).conclude)
    ∧ (spare.toNat < s.straps.spareFrames → tag ∉ s.tagSet → ∀ st, s.tables.spares[spare.toNat]? = some st →
      let done := fun (status : Status) =>
        post ⟨tag, 7#4, status, 0, 0, 0, 0, BitVec.ofNat 28 (spare.toNat % 64 + st.code * 256), true⟩
      let withdrawn := s.tables.spares.set spare.toNat .failed
      (st = .free → exec (.withdrawSpare tag spare) s
          = .next ((done .success).withTables { s.tables with spares := withdrawn }).conclude)
      ∧ (st ≠ .free → exec (.withdrawSpare tag spare) s = .next (done .conflict).conclude)
      ∧ withdrawn[spare.toNat]? = some .failed
      ∧ ({ s.tables with spares := withdrawn } : Tables).lowestFreeSpare ≠ some spare.toNat)

/-- QUERY, presented to admission as log 7 says, with nothing ahead of it completes SUCCESS with the report of R60 and
R61 in the fields of 11.4 and changes no table (R161, R180). -/
def Obligations.QueryReportsTheFrame : Prop :=
  ∀ (tag : Tag) (frame : BitVec 32) (s : State), s.admits = true → s.admission.pendingList = [] →
    frame.toNat < s.straps.hostFrames → tag ∉ s.tagSet →
    ∃ c : Completion, exec (.query tag frame) s
        = .next (s.withAdmission { s.admission with backlog := s.admission.backlog ++ [c] }).conclude
      ∧ c.tag = tag ∧ c.kind = 8#4 ∧ c.status = .success ∧ c.linesDone = 0 ∧ c.accepted = true
      ∧ (match s.tables.suspectOf frame.toNat with
        | none => c.corrected = 0 ∧ c.uncorrectable = 0 ∧ c.poisoned = 0
        | some e => c.corrected = e.corrected ∧ c.uncorrectable = e.uncorrectable
            ∧ c.poisoned = e.lastLine % 64 + e.lastWord % 8 * 64)
      ∧ c.result.getLsbD 3 = (s.tables.suspectOf frame.toNat).isSome
      ∧ (c.result.extractLsb' 4 2).toNat = (if s.tables.migratingFrame = some frame.toNat then 2
          else if ∃ r ∈ s.tables.retireQueue, r.frame = frame.toNat then 1
          else ((s.tables.suspectOf frame.toNat).map fun e => e.retire.code).getD 0)
      ∧ c.result.extractLsb' 24 4 = 0#4
      ∧ (match s.tables.entryOf frame.toNat with
        | none => c.result.extractLsb' 0 3 = 0#3 ∧ c.result.extractLsb' 6 18 = 0#18
        | some ⟨_, .active k⟩ => c.result.extractLsb' 0 3 = 5#3 ∧ (c.result.extractLsb' 6 6).toNat = k % 64
            ∧ c.result.extractLsb' 12 12 = 0#12
        | some ⟨_, .migrating k t cursor⟩ => (c.result.extractLsb' 0 2).toNat = 2 ∧ c.result.getLsbD 2 = k.isSome
            ∧ (c.result.extractLsb' 6 6).toNat = k.getD 0 % 64 ∧ (c.result.extractLsb' 12 6).toNat = t % 64
            ∧ (c.result.extractLsb' 18 6).toNat = cursor % 64)

/-- CLEAR_SUSPECT, presented to admission as log 7 says, with nothing ahead of it: an unpinned entry is removed with
SUCCESS, a pinned one stays with CONFLICT, none gives NOT_FOUND; the completion carries the entry as it stood; the
pointer stays. A frame of U or above is refused with BAD_ADDRESS (R94, R98, R162). -/
def Obligations.ClearSuspectOutcomes : Prop :=
  ∀ (tag : Tag) (frame : BitVec 32) (s : State), s.admits = true → s.admission.pendingList = [] →
    let done := fun (c : Completion) => s.withAdmission { s.admission with backlog := s.admission.backlog ++ [c] }
    (s.straps.hostFrames ≤ frame.toNat → exec (.clearSuspect tag frame) s
        = .next (done ⟨tag, 9#4, .badAddress, 0, 0, 0, 0, 0#28, false⟩).conclude)
    ∧ (frame.toNat < s.straps.hostFrames → tag ∉ s.tagSet → (s.tables.suspectOf frame.toNat = none →
      exec (.clearSuspect tag frame) s = .next (done ⟨tag, 9#4, .notFound, 0, 0, 0, 0, 0#28, true⟩).conclude)
    ∧ (∀ e, s.tables.suspectOf frame.toNat = some e →
      (e.retire = .queued ∨ e.retire = .migrating → exec (.clearSuspect tag frame) s = .next (done
        ⟨tag, 9#4, .conflict, 0, e.corrected, e.uncorrectable, 0, BitVec.ofNat 28 (e.retire.code * 16), true⟩).conclude)
      ∧ (e.retire = .none ∨ e.retire = .refused → ∃ places, exec (.clearSuspect tag frame) s
          = .next ((done ⟨tag, 9#4, .success, 0, e.corrected, e.uncorrectable, 0,
              BitVec.ofNat 28 (e.retire.code * 16), true⟩).withTables { s.tables with suspects := places }).conclude
        ∧ places.length = s.tables.suspects.length
        ∧ ∀ i, placeAt places i =
            if (placeAt s.tables.suspects i).any (fun x => x.frame == frame.toNat) then none
            else placeAt s.tables.suspects i)))

/-- SET_REGION, SET_PATROL and FENCE, presented to admission as log 7 says, with nothing ahead of them: the entry
written or made invalid; the patrol set, a waiting request withdrawn, a restart disowning a tenure in progress; FENCE
completing at once when every slot is empty and standing in the list otherwise (R46, R105, R137, R163, R164, R165). What the
Region Table then gives a host line or a host frame: the attributes, as one set, of the highest-indexed valid entry that
covers its address, from base to base + 2^n - 1, and the default attributes where none does; of a table that holds only what
R43 allows, a line and its frame get the same (R43, R44). -/
def Obligations.RegionPatrolAndFence : Prop :=
  (∀ (t : Tables) (number : Nat),
    let covers := fun (r : Region) (address : Nat) => r.base ≤ address ∧ address < r.base + 2 ^ r.exponent
    let gives := fun (address : Nat) (a : Attributes) =>
      (∃ (i : Nat) (r : Region), t.regions[i]? = some (some r) ∧ covers r address ∧ a = r.attributes
        ∧ ∀ (j : Nat) (q : Region), i < j → t.regions[j]? = some (some q) → ¬covers q address)
      ∨ (a = t.defaults ∧ ∀ (i : Nat) (r : Region), t.regions[i]? = some (some r) → ¬covers r address)
    gives (number * 64) (t.attributesOfLine number) ∧ gives (number * 4096) (t.attributesOfFrame number)
    ∧ ((∀ r, some r ∈ t.regions → 20 ≤ r.exponent ∧ 2 ^ r.exponent ∣ r.base) →
      t.attributesOfLine number = t.attributesOfFrame (number / 64)))
  ∧ ∀ (tag : Tag) (s : State), s.admits = true → s.admission.pendingList = [] → tag ∉ s.tagSet →
    let done := fun (kind : BitVec 4) => s.withAdmission { s.admission with backlog := s.admission.backlog ++
      [⟨tag, kind, .success, 0, 0, 0, 0, 0#28, true⟩] }
    (∀ (index : BitVec 8) (base : BitVec 64) (n : BitVec 8) (attributes : BitVec 4), index.toNat < 8 →
      (20 ≤ n.toNat → n.toNat ≤ 34 → 2 ^ n.toNat ∣ base.toNat →
        exec (.setRegion tag index true base n attributes) s = .next ((done 10#4).withTables { s.tables with
          regions := s.tables.regions.set index.toNat (some ⟨base.toNat, n.toNat,
            ⟨attributes.getLsbD 0, attributes.getLsbD 1, attributes.getLsbD 2, attributes.getLsbD 3⟩⟩) }).conclude)
      ∧ exec (.setRegion tag index false base n attributes) s = .next ((done 10#4).withTables { s.tables with
          regions := s.tables.regions.set index.toNat none }).conclude)
    ∧ (∀ (enable : Bool) (interval : BitVec 16) (restart : Bool), interval ≠ 0#16 →
      exec (.setPatrol tag enable interval restart) s = .next ((done 11#4).withPatrol
        { enabled := enable, interval := interval, cursor := if restart then 0 else s.patrol.cursor
          phase := match s.patrol.phase with
            | .inTenure line repair => .inTenure line repair
            | _ => .idle
          disowned := s.patrol.disowned || (restart && match s.patrol.phase with
            | .inTenure _ _ => true
            | _ => false) }).conclude)
    ∧ ((∀ k, s.slotAt k = none) → exec (.fence tag) s = .next (done 12#4).conclude)
    ∧ ((∃ k, s.slotAt k ≠ none) →
      exec (.fence tag) s = .next (s.withAdmission { s.admission with pendingList := [⟨tag, .fence⟩] }).conclude)

/-- ABORT, presented to admission as log 7 says. A target in the pending list is removed, the others keeping their order. A
slot that waits is emptied and its command completes ABORTED before the ABORT's SUCCESS; a slot in tenure is marked; a queued
RETIRE leaves the queue; the migrating RETIRE is reverted to its source, its target FREE again, a Copy Step in its tenure
ending with its reports discarded, and the next request then starts on the lowest FREE spare; with no working target the ABORT
completes NOT_FOUND. In each case but the marked slot the head of the pending list is then judged for issue (R72, R82, R83,
R132, R133, R135, R166). -/
def Obligations.AbortReachesItsTarget : Prop :=
  ∀ (tag target : Tag) (s : State), s.admits = true → tag ∉ s.tagSet →
    let self := fun (st : Status) => (⟨tag, 13#4, st, 0, 0, 0, 0, 0#28, true⟩ : Completion)
    let inSlot := fun k sl => s.slotAt k = some sl ∧ sl.tag = target ∧ sl.abortedBy = none
      ∧ ∀ j < k, ∀ x, s.slotAt j = some x → ¬(x.tag = target ∧ x.abortedBy = none)
    let noSlot := ∀ j x, s.slotAt j = some x → ¬(x.tag = target ∧ x.abortedBy = none)
    let stopped := s.arbiter.tenure.map fun t => if t.work = .copyStep then { t with discarded := true } else t
    let aborted := fun (m : MigrationRecord) (cursor : Nat) => { s.admission with backlog := s.admission.backlog ++
      [⟨target, 5#4, .aborted, cursor, m.corrected, m.uncorrectable, m.poisonedWords,
        BitVec.ofNat 28 (m.target % 64 + m.poisonedLines % 128 * 256), true⟩, self .success] }
    let offered := fun (m : MigrationRecord) => s.offer { kind := .retireAborted, source := .migration, tag := some target
                                                          frame := m.frame, spare := some m.target }
    (∀ before p behind, s.admission.pendingList = before ++ p :: behind → p.tag = target →
        (∀ q ∈ before, q.tag ≠ target) → (∀ q ∈ behind, q.tag ≠ target) →
        exec (.abort tag target) s = .next ((s.withAdmission { s.admission with
          pendingList := before ++ behind
          backlog := s.admission.backlog ++ [⟨target, p.command.kindCode, .aborted, 0, 0, 0, 0, 0#28, true⟩, self .success]
          }).issueAll).conclude)
    ∧ ((∀ p ∈ s.admission.pendingList, p.tag ≠ target) →
      (∀ k sl, inSlot k sl → sl.phase = .waiting → exec (.abort tag target) s = .next ((s.withAdmission { s.admission with
        slots := s.admission.slots.set k none
        backlog := s.admission.backlog ++ [⟨target, sl.command.kindCode, .aborted, sl.progress, sl.corrected,
          sl.uncorrectable, sl.poisoned, 0#28, true⟩, self .success] }).issueAll).conclude)
      ∧ (∀ k sl, inSlot k sl → sl.phase = .inTenure → exec (.abort tag target) s
        = .next (s.withAdmission { s.admission with
            slots := s.admission.slots.set k (some { sl with abortedBy := some tag }) }).conclude)
      ∧ (∀ r before behind, noSlot → s.tables.retireQueue = before ++ r :: behind → r.origin = .command target →
        (∀ q ∈ before, q.origin ≠ .command target ∧ q.frame ≠ r.frame) → (∀ q ∈ behind, q.frame ≠ r.frame) →
        exec (.abort tag target) s = .next (State.conclude (State.issueAll
          (((s.offer { kind := .retireAborted, source := .migration, tag := some target, frame := r.frame }).withAdmission
            { s.admission with backlog := s.admission.backlog ++
              [⟨target, 5#4, .aborted, 0, 0, 0, 0, 0#28, true⟩, self .success] }).withTables
            { s.tables with
              retireQueue := before ++ behind
              suspects := s.tables.suspects.map
                (Option.map fun e => if e.frame = r.frame then { e with retire := .none } else e) }))))
      ∧ (∀ m cursor, noSlot → s.tables.retireQueue = [] → s.tables.migration = some m → m.origin = .command target →
        s.tables.entryOf m.frame = some ⟨m.frame, .migrating m.old m.target cursor⟩ →
        ∃ remap, exec (.abort tag target) s = .next (State.conclude (State.issueAll
          ((((offered m).withArbiter { s.arbiter with tenure := stopped }).withAdmission (aborted m cursor)).withTables
            { s.tables with
              remap := remap
              spares := s.tables.spares.set m.target .free
              migration := none
              suspects := s.tables.suspects.map
                (Option.map fun e => if e.frame = m.frame then { e with retire := .none } else e) })))
          ∧ remap.find? (fun e => e.frame == m.frame) = m.old.map (fun c => ⟨m.frame, .active c⟩)
          ∧ ∀ f, f ≠ m.frame → remap.find? (fun e => e.frame == f) = s.tables.entryOf f)
      ∧ (∀ m cursor r rest t, noSlot → s.tables.retireQueue = r :: rest →
        (∀ q ∈ s.tables.retireQueue, q.origin ≠ .command target) → s.tables.migration = some m →
        m.origin = .command target → s.tables.entryOf m.frame = some ⟨m.frame, .migrating m.old m.target cursor⟩ →
        r.frame ≠ m.frame → (s.tables.spares.set m.target .free)[t]? = some .free →
        (∀ j < t, (s.tables.spares.set m.target .free)[j]? ≠ some .free) →
        let old := (s.tables.entryOf r.frame).bind fun e => e.state.current?
        ∃ remap, exec (.abort tag target) s = .next (State.conclude (State.issueAll
          (((((offered m).offer { kind := .retireStarted, source := .migration, frame := r.frame, spare := some t
                                  tag := match r.origin with
                                    | .auto => none
                                    | .command tag => some tag
                                  cause := r.origin == .auto && r.cause == .uncorrectable }).withArbiter
            { s.arbiter with tenure := stopped }).withAdmission (aborted m cursor)).withTables
            { s.tables with
              remap := remap
              spares := (s.tables.spares.set m.target .free).set t .target
              retireQueue := rest
              migration := some ⟨r.frame, r.origin, r.cause, t, old, 0, 0, 0, 0, .waiting⟩
              suspects := s.tables.suspects.map (Option.map fun e =>
                if e.frame = m.frame then { e with retire := .none }
                else if e.frame = r.frame then { e with retire := .migrating } else e) })))
          ∧ remap.find? (fun e => e.frame == m.frame) = m.old.map (fun c => ⟨m.frame, .active c⟩)
          ∧ remap.find? (fun e => e.frame == r.frame) = some ⟨r.frame, .migrating old t 0⟩
          ∧ ∀ f, f ≠ m.frame → f ≠ r.frame → remap.find? (fun e => e.frame == f) = s.tables.entryOf f)
      ∧ (noSlot → (∀ r ∈ s.tables.retireQueue, r.origin ≠ .command target) →
        (∀ m, s.tables.migration = some m → m.origin ≠ .command target) →
        exec (.abort tag target) s = .next ((s.withAdmission { s.admission with
          backlog := s.admission.backlog ++ [self .notFound] }).issueAll).conclude))

/-! ### Events and Fault Capture (spec 10) -/

/-- An offered event: a CORRECTED one is dropped while report-corrected is off; in OFF and STARTING it leaves no trace;
in RUNNING, QUIESCING and QUIESCED it joins the tail if the list holds fewer than 8 and no summary is pending;
otherwise, and in HALTED, it is counted, the first lost kind and source kept, the count saturating at 65,535 (R168,
R169, R170). -/
def Obligations.EventsAreRecordedOrCounted : Prop :=
  ∀ (s : State) (e : EventRecord),
    let counted := s.withNews { s.news with overflow := match s.news.overflow with
      | none => some ⟨1, e.kind, e.source⟩
      | some o => some ⟨min 65535 (o.count + 1), o.firstKind, o.firstSource⟩ }
    (e.kind = .corrected → s.engine.reportCorrected = false → s.offer e = s)
    ∧ (e.kind ≠ .corrected ∨ s.engine.reportCorrected = true →
      (s.engine.state = .off ∨ s.engine.state = .starting → s.offer e = s)
      ∧ (s.engine.state = .halted → s.offer e = counted)
      ∧ (s.engine.state.posts = true → s.news.events.length < 8 → s.news.overflow = none →
          s.offer e = s.withNews { s.news with events := s.news.events ++ [e] })
      ∧ (s.engine.state.posts = true → 8 ≤ s.news.events.length ∨ s.news.overflow ≠ none → s.offer e = counted))

/-- Fault Capture keeps the oldest error of the most serious class: an empty one captures with more 0; a class A error
replaces a held class B error; any other presented error sets more and is not captured (R174, R175). -/
def Obligations.FaultCaptureKeepsTheMostSerious : Prop :=
  ∀ (s : State) (kind : CaptureKind) (source : Source) (line word : Nat),
    let t := s.present kind source line word
    (s.news.capture = none → t = s.withNews { s.news with capture := some ⟨kind, source, line, word, false⟩ })
    ∧ (∀ h, s.news.capture = some h →
      ((∃ b, h.kind = .corrected b) ∧ (∀ b, kind ≠ .corrected b) →
        t = s.withNews { s.news with capture := some ⟨kind, source, line, word, true⟩ })
      ∧ (¬((∃ b, h.kind = .corrected b) ∧ (∀ b, kind ≠ .corrected b)) →
        t = s.withNews { s.news with capture := some { h with more := true } }))
end

