-- ==== Sys2Proof/Laws/State.lean ====
section
/-!
SUPPORT. The field lemmas of State: what each group reads after each group is set. Every later proof cites these (they
are simp lemmas, each true by rfl) and none unfolds a record update.
-/

namespace Sys2Proof.Machine


/-! ### withReset -/

@[simp] theorem State.withReset_resetAsserted (s : State) (x : Bool) : (s.withReset x).resetAsserted = x := rfl
@[simp] theorem State.withReset_straps (s : State) (x : Bool) : (s.withReset x).straps = s.straps := rfl
@[simp] theorem State.withReset_attn (s : State) (x : Bool) : (s.withReset x).attn = s.attn := rfl
@[simp] theorem State.withReset_memory (s : State) (x : Bool) : (s.withReset x).memory = s.memory := rfl
@[simp] theorem State.withReset_arbiter (s : State) (x : Bool) : (s.withReset x).arbiter = s.arbiter := rfl
@[simp] theorem State.withReset_port (s : State) (x : Bool) : (s.withReset x).port = s.port := rfl
@[simp] theorem State.withReset_tables (s : State) (x : Bool) : (s.withReset x).tables = s.tables := rfl
@[simp] theorem State.withReset_patrol (s : State) (x : Bool) : (s.withReset x).patrol = s.patrol := rfl
@[simp] theorem State.withReset_engine (s : State) (x : Bool) : (s.withReset x).engine = s.engine := rfl
@[simp] theorem State.withReset_admission (s : State) (x : Bool) : (s.withReset x).admission = s.admission := rfl
@[simp] theorem State.withReset_news (s : State) (x : Bool) : (s.withReset x).news = s.news := rfl
@[simp] theorem State.withReset_pending (s : State) (x : Bool) : (s.withReset x).pending = s.pending := rfl
@[simp] theorem State.withReset_withReset (s : State) (x y : Bool) : (s.withReset x).withReset y = s.withReset y := rfl
@[simp] theorem State.withReset_self (s : State) : s.withReset s.resetAsserted = s := rfl

/-! ### withStraps -/

@[simp] theorem State.withStraps_resetAsserted (s : State) (x : Straps) : (s.withStraps x).resetAsserted = s.resetAsserted := rfl
@[simp] theorem State.withStraps_straps (s : State) (x : Straps) : (s.withStraps x).straps = x := rfl
@[simp] theorem State.withStraps_attn (s : State) (x : Straps) : (s.withStraps x).attn = s.attn := rfl
@[simp] theorem State.withStraps_memory (s : State) (x : Straps) : (s.withStraps x).memory = s.memory := rfl
@[simp] theorem State.withStraps_arbiter (s : State) (x : Straps) : (s.withStraps x).arbiter = s.arbiter := rfl
@[simp] theorem State.withStraps_port (s : State) (x : Straps) : (s.withStraps x).port = s.port := rfl
@[simp] theorem State.withStraps_tables (s : State) (x : Straps) : (s.withStraps x).tables = s.tables := rfl
@[simp] theorem State.withStraps_patrol (s : State) (x : Straps) : (s.withStraps x).patrol = s.patrol := rfl
@[simp] theorem State.withStraps_engine (s : State) (x : Straps) : (s.withStraps x).engine = s.engine := rfl
@[simp] theorem State.withStraps_admission (s : State) (x : Straps) : (s.withStraps x).admission = s.admission := rfl
@[simp] theorem State.withStraps_news (s : State) (x : Straps) : (s.withStraps x).news = s.news := rfl
@[simp] theorem State.withStraps_pending (s : State) (x : Straps) : (s.withStraps x).pending = s.pending := rfl
@[simp] theorem State.withStraps_withStraps (s : State) (x y : Straps) : (s.withStraps x).withStraps y = s.withStraps y := rfl
@[simp] theorem State.withStraps_self (s : State) : s.withStraps s.straps = s := rfl

/-! ### withAttn -/

@[simp] theorem State.withAttn_resetAsserted (s : State) (x : Bool) : (s.withAttn x).resetAsserted = s.resetAsserted := rfl
@[simp] theorem State.withAttn_straps (s : State) (x : Bool) : (s.withAttn x).straps = s.straps := rfl
@[simp] theorem State.withAttn_attn (s : State) (x : Bool) : (s.withAttn x).attn = x := rfl
@[simp] theorem State.withAttn_memory (s : State) (x : Bool) : (s.withAttn x).memory = s.memory := rfl
@[simp] theorem State.withAttn_arbiter (s : State) (x : Bool) : (s.withAttn x).arbiter = s.arbiter := rfl
@[simp] theorem State.withAttn_port (s : State) (x : Bool) : (s.withAttn x).port = s.port := rfl
@[simp] theorem State.withAttn_tables (s : State) (x : Bool) : (s.withAttn x).tables = s.tables := rfl
@[simp] theorem State.withAttn_patrol (s : State) (x : Bool) : (s.withAttn x).patrol = s.patrol := rfl
@[simp] theorem State.withAttn_engine (s : State) (x : Bool) : (s.withAttn x).engine = s.engine := rfl
@[simp] theorem State.withAttn_admission (s : State) (x : Bool) : (s.withAttn x).admission = s.admission := rfl
@[simp] theorem State.withAttn_news (s : State) (x : Bool) : (s.withAttn x).news = s.news := rfl
@[simp] theorem State.withAttn_pending (s : State) (x : Bool) : (s.withAttn x).pending = s.pending := rfl
@[simp] theorem State.withAttn_withAttn (s : State) (x y : Bool) : (s.withAttn x).withAttn y = s.withAttn y := rfl
@[simp] theorem State.withAttn_self (s : State) : s.withAttn s.attn = s := rfl

/-! ### withMemory -/

@[simp] theorem State.withMemory_resetAsserted (s : State) (x : Memory) : (s.withMemory x).resetAsserted = s.resetAsserted := rfl
@[simp] theorem State.withMemory_straps (s : State) (x : Memory) : (s.withMemory x).straps = s.straps := rfl
@[simp] theorem State.withMemory_attn (s : State) (x : Memory) : (s.withMemory x).attn = s.attn := rfl
@[simp] theorem State.withMemory_memory (s : State) (x : Memory) : (s.withMemory x).memory = x := rfl
@[simp] theorem State.withMemory_arbiter (s : State) (x : Memory) : (s.withMemory x).arbiter = s.arbiter := rfl
@[simp] theorem State.withMemory_port (s : State) (x : Memory) : (s.withMemory x).port = s.port := rfl
@[simp] theorem State.withMemory_tables (s : State) (x : Memory) : (s.withMemory x).tables = s.tables := rfl
@[simp] theorem State.withMemory_patrol (s : State) (x : Memory) : (s.withMemory x).patrol = s.patrol := rfl
@[simp] theorem State.withMemory_engine (s : State) (x : Memory) : (s.withMemory x).engine = s.engine := rfl
@[simp] theorem State.withMemory_admission (s : State) (x : Memory) : (s.withMemory x).admission = s.admission := rfl
@[simp] theorem State.withMemory_news (s : State) (x : Memory) : (s.withMemory x).news = s.news := rfl
@[simp] theorem State.withMemory_pending (s : State) (x : Memory) : (s.withMemory x).pending = s.pending := rfl
@[simp] theorem State.withMemory_withMemory (s : State) (x y : Memory) : (s.withMemory x).withMemory y = s.withMemory y := rfl
@[simp] theorem State.withMemory_self (s : State) : s.withMemory s.memory = s := rfl

/-! ### withArbiter -/

@[simp] theorem State.withArbiter_resetAsserted (s : State) (x : Arbiter) : (s.withArbiter x).resetAsserted = s.resetAsserted := rfl
@[simp] theorem State.withArbiter_straps (s : State) (x : Arbiter) : (s.withArbiter x).straps = s.straps := rfl
@[simp] theorem State.withArbiter_attn (s : State) (x : Arbiter) : (s.withArbiter x).attn = s.attn := rfl
@[simp] theorem State.withArbiter_memory (s : State) (x : Arbiter) : (s.withArbiter x).memory = s.memory := rfl
@[simp] theorem State.withArbiter_arbiter (s : State) (x : Arbiter) : (s.withArbiter x).arbiter = x := rfl
@[simp] theorem State.withArbiter_port (s : State) (x : Arbiter) : (s.withArbiter x).port = s.port := rfl
@[simp] theorem State.withArbiter_tables (s : State) (x : Arbiter) : (s.withArbiter x).tables = s.tables := rfl
@[simp] theorem State.withArbiter_patrol (s : State) (x : Arbiter) : (s.withArbiter x).patrol = s.patrol := rfl
@[simp] theorem State.withArbiter_engine (s : State) (x : Arbiter) : (s.withArbiter x).engine = s.engine := rfl
@[simp] theorem State.withArbiter_admission (s : State) (x : Arbiter) : (s.withArbiter x).admission = s.admission := rfl
@[simp] theorem State.withArbiter_news (s : State) (x : Arbiter) : (s.withArbiter x).news = s.news := rfl
@[simp] theorem State.withArbiter_pending (s : State) (x : Arbiter) : (s.withArbiter x).pending = s.pending := rfl
@[simp] theorem State.withArbiter_withArbiter (s : State) (x y : Arbiter) : (s.withArbiter x).withArbiter y = s.withArbiter y := rfl
@[simp] theorem State.withArbiter_self (s : State) : s.withArbiter s.arbiter = s := rfl

/-! ### withPort -/

@[simp] theorem State.withPort_resetAsserted (s : State) (x : Port) : (s.withPort x).resetAsserted = s.resetAsserted := rfl
@[simp] theorem State.withPort_straps (s : State) (x : Port) : (s.withPort x).straps = s.straps := rfl
@[simp] theorem State.withPort_attn (s : State) (x : Port) : (s.withPort x).attn = s.attn := rfl
@[simp] theorem State.withPort_memory (s : State) (x : Port) : (s.withPort x).memory = s.memory := rfl
@[simp] theorem State.withPort_arbiter (s : State) (x : Port) : (s.withPort x).arbiter = s.arbiter := rfl
@[simp] theorem State.withPort_port (s : State) (x : Port) : (s.withPort x).port = x := rfl
@[simp] theorem State.withPort_tables (s : State) (x : Port) : (s.withPort x).tables = s.tables := rfl
@[simp] theorem State.withPort_patrol (s : State) (x : Port) : (s.withPort x).patrol = s.patrol := rfl
@[simp] theorem State.withPort_engine (s : State) (x : Port) : (s.withPort x).engine = s.engine := rfl
@[simp] theorem State.withPort_admission (s : State) (x : Port) : (s.withPort x).admission = s.admission := rfl
@[simp] theorem State.withPort_news (s : State) (x : Port) : (s.withPort x).news = s.news := rfl
@[simp] theorem State.withPort_pending (s : State) (x : Port) : (s.withPort x).pending = s.pending := rfl
@[simp] theorem State.withPort_withPort (s : State) (x y : Port) : (s.withPort x).withPort y = s.withPort y := rfl
@[simp] theorem State.withPort_self (s : State) : s.withPort s.port = s := rfl

/-! ### withTables -/

@[simp] theorem State.withTables_resetAsserted (s : State) (x : Tables) : (s.withTables x).resetAsserted = s.resetAsserted := rfl
@[simp] theorem State.withTables_straps (s : State) (x : Tables) : (s.withTables x).straps = s.straps := rfl
@[simp] theorem State.withTables_attn (s : State) (x : Tables) : (s.withTables x).attn = s.attn := rfl
@[simp] theorem State.withTables_memory (s : State) (x : Tables) : (s.withTables x).memory = s.memory := rfl
@[simp] theorem State.withTables_arbiter (s : State) (x : Tables) : (s.withTables x).arbiter = s.arbiter := rfl
@[simp] theorem State.withTables_port (s : State) (x : Tables) : (s.withTables x).port = s.port := rfl
@[simp] theorem State.withTables_tables (s : State) (x : Tables) : (s.withTables x).tables = x := rfl
@[simp] theorem State.withTables_patrol (s : State) (x : Tables) : (s.withTables x).patrol = s.patrol := rfl
@[simp] theorem State.withTables_engine (s : State) (x : Tables) : (s.withTables x).engine = s.engine := rfl
@[simp] theorem State.withTables_admission (s : State) (x : Tables) : (s.withTables x).admission = s.admission := rfl
@[simp] theorem State.withTables_news (s : State) (x : Tables) : (s.withTables x).news = s.news := rfl
@[simp] theorem State.withTables_pending (s : State) (x : Tables) : (s.withTables x).pending = s.pending := rfl
@[simp] theorem State.withTables_withTables (s : State) (x y : Tables) : (s.withTables x).withTables y = s.withTables y := rfl
@[simp] theorem State.withTables_self (s : State) : s.withTables s.tables = s := rfl

/-! ### withPatrol -/

@[simp] theorem State.withPatrol_resetAsserted (s : State) (x : Patrol) : (s.withPatrol x).resetAsserted = s.resetAsserted := rfl
@[simp] theorem State.withPatrol_straps (s : State) (x : Patrol) : (s.withPatrol x).straps = s.straps := rfl
@[simp] theorem State.withPatrol_attn (s : State) (x : Patrol) : (s.withPatrol x).attn = s.attn := rfl
@[simp] theorem State.withPatrol_memory (s : State) (x : Patrol) : (s.withPatrol x).memory = s.memory := rfl
@[simp] theorem State.withPatrol_arbiter (s : State) (x : Patrol) : (s.withPatrol x).arbiter = s.arbiter := rfl
@[simp] theorem State.withPatrol_port (s : State) (x : Patrol) : (s.withPatrol x).port = s.port := rfl
@[simp] theorem State.withPatrol_tables (s : State) (x : Patrol) : (s.withPatrol x).tables = s.tables := rfl
@[simp] theorem State.withPatrol_patrol (s : State) (x : Patrol) : (s.withPatrol x).patrol = x := rfl
@[simp] theorem State.withPatrol_engine (s : State) (x : Patrol) : (s.withPatrol x).engine = s.engine := rfl
@[simp] theorem State.withPatrol_admission (s : State) (x : Patrol) : (s.withPatrol x).admission = s.admission := rfl
@[simp] theorem State.withPatrol_news (s : State) (x : Patrol) : (s.withPatrol x).news = s.news := rfl
@[simp] theorem State.withPatrol_pending (s : State) (x : Patrol) : (s.withPatrol x).pending = s.pending := rfl
@[simp] theorem State.withPatrol_withPatrol (s : State) (x y : Patrol) : (s.withPatrol x).withPatrol y = s.withPatrol y := rfl
@[simp] theorem State.withPatrol_self (s : State) : s.withPatrol s.patrol = s := rfl

/-! ### withEngine -/

@[simp] theorem State.withEngine_resetAsserted (s : State) (x : Engine) : (s.withEngine x).resetAsserted = s.resetAsserted := rfl
@[simp] theorem State.withEngine_straps (s : State) (x : Engine) : (s.withEngine x).straps = s.straps := rfl
@[simp] theorem State.withEngine_attn (s : State) (x : Engine) : (s.withEngine x).attn = s.attn := rfl
@[simp] theorem State.withEngine_memory (s : State) (x : Engine) : (s.withEngine x).memory = s.memory := rfl
@[simp] theorem State.withEngine_arbiter (s : State) (x : Engine) : (s.withEngine x).arbiter = s.arbiter := rfl
@[simp] theorem State.withEngine_port (s : State) (x : Engine) : (s.withEngine x).port = s.port := rfl
@[simp] theorem State.withEngine_tables (s : State) (x : Engine) : (s.withEngine x).tables = s.tables := rfl
@[simp] theorem State.withEngine_patrol (s : State) (x : Engine) : (s.withEngine x).patrol = s.patrol := rfl
@[simp] theorem State.withEngine_engine (s : State) (x : Engine) : (s.withEngine x).engine = x := rfl
@[simp] theorem State.withEngine_admission (s : State) (x : Engine) : (s.withEngine x).admission = s.admission := rfl
@[simp] theorem State.withEngine_news (s : State) (x : Engine) : (s.withEngine x).news = s.news := rfl
@[simp] theorem State.withEngine_pending (s : State) (x : Engine) : (s.withEngine x).pending = s.pending := rfl
@[simp] theorem State.withEngine_withEngine (s : State) (x y : Engine) : (s.withEngine x).withEngine y = s.withEngine y := rfl
@[simp] theorem State.withEngine_self (s : State) : s.withEngine s.engine = s := rfl

/-! ### withAdmission -/

@[simp] theorem State.withAdmission_resetAsserted (s : State) (x : Admission) : (s.withAdmission x).resetAsserted = s.resetAsserted := rfl
@[simp] theorem State.withAdmission_straps (s : State) (x : Admission) : (s.withAdmission x).straps = s.straps := rfl
@[simp] theorem State.withAdmission_attn (s : State) (x : Admission) : (s.withAdmission x).attn = s.attn := rfl
@[simp] theorem State.withAdmission_memory (s : State) (x : Admission) : (s.withAdmission x).memory = s.memory := rfl
@[simp] theorem State.withAdmission_arbiter (s : State) (x : Admission) : (s.withAdmission x).arbiter = s.arbiter := rfl
@[simp] theorem State.withAdmission_port (s : State) (x : Admission) : (s.withAdmission x).port = s.port := rfl
@[simp] theorem State.withAdmission_tables (s : State) (x : Admission) : (s.withAdmission x).tables = s.tables := rfl
@[simp] theorem State.withAdmission_patrol (s : State) (x : Admission) : (s.withAdmission x).patrol = s.patrol := rfl
@[simp] theorem State.withAdmission_engine (s : State) (x : Admission) : (s.withAdmission x).engine = s.engine := rfl
@[simp] theorem State.withAdmission_admission (s : State) (x : Admission) : (s.withAdmission x).admission = x := rfl
@[simp] theorem State.withAdmission_news (s : State) (x : Admission) : (s.withAdmission x).news = s.news := rfl
@[simp] theorem State.withAdmission_pending (s : State) (x : Admission) : (s.withAdmission x).pending = s.pending := rfl
@[simp] theorem State.withAdmission_withAdmission (s : State) (x y : Admission) : (s.withAdmission x).withAdmission y = s.withAdmission y := rfl
@[simp] theorem State.withAdmission_self (s : State) : s.withAdmission s.admission = s := rfl

/-! ### withNews -/

@[simp] theorem State.withNews_resetAsserted (s : State) (x : News) : (s.withNews x).resetAsserted = s.resetAsserted := rfl
@[simp] theorem State.withNews_straps (s : State) (x : News) : (s.withNews x).straps = s.straps := rfl
@[simp] theorem State.withNews_attn (s : State) (x : News) : (s.withNews x).attn = s.attn := rfl
@[simp] theorem State.withNews_memory (s : State) (x : News) : (s.withNews x).memory = s.memory := rfl
@[simp] theorem State.withNews_arbiter (s : State) (x : News) : (s.withNews x).arbiter = s.arbiter := rfl
@[simp] theorem State.withNews_port (s : State) (x : News) : (s.withNews x).port = s.port := rfl
@[simp] theorem State.withNews_tables (s : State) (x : News) : (s.withNews x).tables = s.tables := rfl
@[simp] theorem State.withNews_patrol (s : State) (x : News) : (s.withNews x).patrol = s.patrol := rfl
@[simp] theorem State.withNews_engine (s : State) (x : News) : (s.withNews x).engine = s.engine := rfl
@[simp] theorem State.withNews_admission (s : State) (x : News) : (s.withNews x).admission = s.admission := rfl
@[simp] theorem State.withNews_news (s : State) (x : News) : (s.withNews x).news = x := rfl
@[simp] theorem State.withNews_pending (s : State) (x : News) : (s.withNews x).pending = s.pending := rfl
@[simp] theorem State.withNews_withNews (s : State) (x y : News) : (s.withNews x).withNews y = s.withNews y := rfl
@[simp] theorem State.withNews_self (s : State) : s.withNews s.news = s := rfl

/-! ### withPending -/

@[simp] theorem State.withPending_resetAsserted (s : State) (x : List Instr) : (s.withPending x).resetAsserted = s.resetAsserted := rfl
@[simp] theorem State.withPending_straps (s : State) (x : List Instr) : (s.withPending x).straps = s.straps := rfl
@[simp] theorem State.withPending_attn (s : State) (x : List Instr) : (s.withPending x).attn = s.attn := rfl
@[simp] theorem State.withPending_memory (s : State) (x : List Instr) : (s.withPending x).memory = s.memory := rfl
@[simp] theorem State.withPending_arbiter (s : State) (x : List Instr) : (s.withPending x).arbiter = s.arbiter := rfl
@[simp] theorem State.withPending_port (s : State) (x : List Instr) : (s.withPending x).port = s.port := rfl
@[simp] theorem State.withPending_tables (s : State) (x : List Instr) : (s.withPending x).tables = s.tables := rfl
@[simp] theorem State.withPending_patrol (s : State) (x : List Instr) : (s.withPending x).patrol = s.patrol := rfl
@[simp] theorem State.withPending_engine (s : State) (x : List Instr) : (s.withPending x).engine = s.engine := rfl
@[simp] theorem State.withPending_admission (s : State) (x : List Instr) : (s.withPending x).admission = s.admission := rfl
@[simp] theorem State.withPending_news (s : State) (x : List Instr) : (s.withPending x).news = s.news := rfl
@[simp] theorem State.withPending_pending (s : State) (x : List Instr) : (s.withPending x).pending = x := rfl
@[simp] theorem State.withPending_withPending (s : State) (x y : List Instr) : (s.withPending x).withPending y = s.withPending y := rfl
@[simp] theorem State.withPending_self (s : State) : s.withPending s.pending = s := rfl

end Sys2Proof.Machine
end

