-- ==== Sys2Proof/Laws/Accounting.lean ====
section
/-!
SUPPORT. What the accounting operations can do, said once: events, captures, Suspect Table updates, offers and
migration starts change the news, the tables (but no region and no default) and the tail of the backlog, and nothing else.
-/

namespace Sys2Proof.Machine

theorem Accounted.refl (s : State) : Accounted s s := by
  constructor <;> first | rfl | exact ⟨[], (List.append_nil _).symm⟩

theorem Accounted.trans {s t u : State} (h : Accounted s t) (k : Accounted t u) : Accounted s u where
  resetAsserted := k.resetAsserted.trans h.resetAsserted
  straps := k.straps.trans h.straps
  attn := k.attn.trans h.attn
  memory := k.memory.trans h.memory
  arbiter := k.arbiter.trans h.arbiter
  port := k.port.trans h.port
  patrol := k.patrol.trans h.patrol
  engine := k.engine.trans h.engine
  pending := k.pending.trans h.pending
  pendingList := k.pendingList.trans h.pendingList
  slots := k.slots.trans h.slots
  backlog := by
    obtain ⟨a, ha⟩ := h.backlog
    obtain ⟨b, hb⟩ := k.backlog
    exact ⟨a ++ b, by rw [hb, ha, List.append_assoc]⟩
  regions := k.regions.trans h.regions
  defaults := k.defaults.trans h.defaults

/-- News are accounting. -/
theorem Accounted.withNews (s : State) (x : News) : Accounted s (s.withNews x) := by
  constructor <;> first | rfl | exact ⟨[], (List.append_nil _).symm⟩

/-- Tables with the same regions and defaults are accounting. -/
theorem Accounted.withTables (s : State) (x : Tables) (hr : x.regions = s.tables.regions)
    (hd : x.defaults = s.tables.defaults) : Accounted s (s.withTables x) := by
  constructor <;> first | rfl | exact hr | exact hd | exact ⟨[], (List.append_nil _).symm⟩

/-- Accounting followed by news. -/
theorem Accounted.thenNews {s u : State} (h : Accounted s u) (x : News) : Accounted s (u.withNews x) :=
  h.trans (.withNews u x)

/-- Accounting followed by tables with the same regions and defaults. -/
theorem Accounted.thenTables {s u : State} (h : Accounted s u) (x : Tables) (hr : x.regions = u.tables.regions)
    (hd : x.defaults = u.tables.defaults) : Accounted s (u.withTables x) :=
  h.trans (.withTables u x hr hd)

/-- A completion is accounting. -/
theorem Accounted.complete (s : State) (c : Completion) : Accounted s (s.complete c) := by
  constructor <;> first | rfl | exact ⟨[c], rfl⟩

/-! ### Table operations leave regions and defaults alone -/

@[simp] theorem Tables.setSpare_regions (t : Tables) (k : Nat) (st : SpareState) : (t.setSpare k st).regions = t.regions := rfl
@[simp] theorem Tables.setSpare_defaults (t : Tables) (k : Nat) (st : SpareState) : (t.setSpare k st).defaults = t.defaults := rfl
@[simp] theorem Tables.setSpare_remap (t : Tables) (k : Nat) (st : SpareState) : (t.setSpare k st).remap = t.remap := rfl
@[simp] theorem Tables.setSpare_spares (t : Tables) (k : Nat) (st : SpareState) : (t.setSpare k st).spares = t.spares.set k st := rfl
@[simp] theorem Tables.setSpare_migration (t : Tables) (k : Nat) (st : SpareState) : (t.setSpare k st).migration = t.migration := rfl
@[simp] theorem Tables.setSpare_retireQueue (t : Tables) (k : Nat) (st : SpareState) : (t.setSpare k st).retireQueue = t.retireQueue := rfl
@[simp] theorem Tables.setSpare_suspects (t : Tables) (k : Nat) (st : SpareState) : (t.setSpare k st).suspects = t.suspects := rfl
@[simp] theorem Tables.putEntry_regions (t : Tables) (f : Nat) (st : RemapState) : (t.putEntry f st).regions = t.regions := rfl
@[simp] theorem Tables.putEntry_defaults (t : Tables) (f : Nat) (st : RemapState) : (t.putEntry f st).defaults = t.defaults := rfl
@[simp] theorem Tables.putEntry_spares (t : Tables) (f : Nat) (st : RemapState) : (t.putEntry f st).spares = t.spares := rfl
@[simp] theorem Tables.putEntry_migration (t : Tables) (f : Nat) (st : RemapState) : (t.putEntry f st).migration = t.migration := rfl
@[simp] theorem Tables.putEntry_retireQueue (t : Tables) (f : Nat) (st : RemapState) : (t.putEntry f st).retireQueue = t.retireQueue := rfl
@[simp] theorem Tables.putEntry_suspects (t : Tables) (f : Nat) (st : RemapState) : (t.putEntry f st).suspects = t.suspects := rfl
@[simp] theorem Tables.removeEntry_regions (t : Tables) (f : Nat) : (t.removeEntry f).regions = t.regions := rfl
@[simp] theorem Tables.removeEntry_defaults (t : Tables) (f : Nat) : (t.removeEntry f).defaults = t.defaults := rfl
@[simp] theorem Tables.removeEntry_spares (t : Tables) (f : Nat) : (t.removeEntry f).spares = t.spares := rfl
@[simp] theorem Tables.removeEntry_migration (t : Tables) (f : Nat) : (t.removeEntry f).migration = t.migration := rfl
@[simp] theorem Tables.removeEntry_retireQueue (t : Tables) (f : Nat) : (t.removeEntry f).retireQueue = t.retireQueue := rfl
@[simp] theorem Tables.removeEntry_suspects (t : Tables) (f : Nat) : (t.removeEntry f).suspects = t.suspects := rfl
@[simp] theorem Tables.setRetire_regions (t : Tables) (f : Nat) (st : RetireState) : (t.setRetire f st).regions = t.regions := rfl
@[simp] theorem Tables.setRetire_defaults (t : Tables) (f : Nat) (st : RetireState) : (t.setRetire f st).defaults = t.defaults := rfl
@[simp] theorem Tables.setRetire_spares (t : Tables) (f : Nat) (st : RetireState) : (t.setRetire f st).spares = t.spares := rfl
@[simp] theorem Tables.setRetire_remap (t : Tables) (f : Nat) (st : RetireState) : (t.setRetire f st).remap = t.remap := rfl
@[simp] theorem Tables.setRetire_migration (t : Tables) (f : Nat) (st : RetireState) : (t.setRetire f st).migration = t.migration := rfl
@[simp] theorem Tables.setRetire_retireQueue (t : Tables) (f : Nat) (st : RetireState) : (t.setRetire f st).retireQueue = t.retireQueue := rfl
@[simp] theorem Tables.removeSuspect_regions (t : Tables) (f : Nat) : (t.removeSuspect f).regions = t.regions := rfl
@[simp] theorem Tables.removeSuspect_defaults (t : Tables) (f : Nat) : (t.removeSuspect f).defaults = t.defaults := rfl
@[simp] theorem Tables.removeSuspect_spares (t : Tables) (f : Nat) : (t.removeSuspect f).spares = t.spares := rfl
@[simp] theorem Tables.removeSuspect_remap (t : Tables) (f : Nat) : (t.removeSuspect f).remap = t.remap := rfl
@[simp] theorem Tables.removeSuspect_migration (t : Tables) (f : Nat) : (t.removeSuspect f).migration = t.migration := rfl
@[simp] theorem Tables.removeSuspect_retireQueue (t : Tables) (f : Nat) : (t.removeSuspect f).retireQueue = t.retireQueue := rfl

/-! ### The accounting operations -/

/-- An offer changes nothing but the event list and the overflow summary. -/
theorem State.offer_accounted (s : State) (e : EventRecord) : Accounted s (s.offer e) := by
  unfold State.offer
  split
  · exact .refl s
  · exact .withNews ..

@[simp] theorem State.offer_tables (s : State) (e : EventRecord) : (s.offer e).tables = s.tables := by
  unfold State.offer; split <;> rfl

@[simp] theorem State.offer_admission (s : State) (e : EventRecord) : (s.offer e).admission = s.admission := by
  unfold State.offer; split <;> rfl

@[simp] theorem State.offer_engine (s : State) (e : EventRecord) : (s.offer e).engine = s.engine := (s.offer_accounted e).engine

/-- An offer changes the news alone. -/
theorem State.offer_eq_withNews (s : State) (e : EventRecord) : s.offer e = s.withNews (s.offer e).news := by
  unfold State.offer; split <;> rfl

/-- What an offer makes of the news depends on the news and the engine alone. -/
theorem State.offer_news_congr {s t : State} (e : EventRecord) (news : t.news = s.news) (engine : t.engine = s.engine) :
    (t.offer e).news = (s.offer e).news := by
  unfold State.offer
  rw [engine, news]
  split
  · exact news
  · rfl

theorem News.record_capture (n : News) (st : EngineState) (e : EventRecord) : (n.record st e).capture = n.capture := by
  unfold News.record News.countLost
  split <;> first | rfl | (split <;> rfl)

/-- No offer touches Fault Capture. -/
@[simp] theorem State.offer_capture (s : State) (e : EventRecord) : (s.offer e).news.capture = s.news.capture := by
  unfold State.offer
  split
  · rfl
  · exact News.record_capture ..

/-- A presented error changes nothing but Fault Capture. -/
theorem State.present_accounted (s : State) (k : CaptureKind) (src : Source) (line word : Nat) :
    Accounted s (s.present k src line word) := .withNews ..

theorem State.completeOrigin_accounted (s : State) (o : Origin) (st : Status) (l c u p : Nat) (r : BitVec 28) :
    Accounted s (s.completeOrigin o st l c u p r) := by
  cases o
  · exact .refl s
  · exact .complete ..

/-- Accounting followed by an offer. -/
theorem Accounted.thenOffer {s u : State} (h : Accounted s u) (e : EventRecord) : Accounted s (u.offer e) :=
  h.trans (u.offer_accounted e)

/-- Accounting followed by a presented error. -/
theorem Accounted.thenPresent {s u : State} (h : Accounted s u) (k : CaptureKind) (src : Source) (line word : Nat) :
    Accounted s (u.present k src line word) := h.thenNews _

theorem State.refuseStart_accounted (s : State) (r : RetireRequest) : Accounted s (s.refuseStart r) := by
  unfold State.refuseStart
  refine Accounted.thenTables (Accounted.trans ?_ (State.completeOrigin_accounted ..)) _ ?_ ?_
  · exact State.offer_accounted ..
  all_goals rfl

theorem State.beginMigration_accounted (s : State) (r : RetireRequest) (t : Nat) : Accounted s (s.beginMigration r t) := by
  unfold State.beginMigration
  refine Accounted.thenTables (Accounted.thenOffer (Accounted.thenTables (Accounted.refl s) _ ?_ ?_) _) _ ?_ ?_
  all_goals rfl

theorem startFrom_accounted (l : List RetireRequest) (s : State) : Accounted s (startFrom l s) := by
  induction l generalizing s with
  | nil => exact .refl s
  | cons r rest ih =>
    unfold startFrom
    split
    · have h : Accounted s (s.withTables { s.tables with retireQueue := rest }) := .withTables _ _ rfl rfl
      dsimp only
      split
      · exact (h.trans (State.refuseStart_accounted ..)).trans (ih _)
      · exact h.trans (State.beginMigration_accounted ..)
    · exact .refl s

theorem State.startMigrations_accounted (s : State) : Accounted s s.startMigrations := startFrom_accounted _ s

theorem State.joinQueue_accounted (s : State) (r : RetireRequest) : Accounted s (s.joinQueue r) := by
  unfold State.joinQueue
  refine Accounted.trans ?_ (State.startMigrations_accounted _)
  exact .withTables _ _ rfl rfl

theorem State.offerAuto_accounted (s : State) (f : Nat) (c : Cause) : Accounted s (s.offerAuto f c) := by
  unfold State.offerAuto
  split
  · exact .refl s
  · split
    · exact State.offer_accounted ..
    · exact State.joinQueue_accounted ..

theorem State.considerOffer_accounted (s : State) (f : Nat) : Accounted s (s.considerOffer f) := by
  unfold State.considerOffer
  split
  · exact .refl s
  · split
    · exact State.offerAuto_accounted ..
    · exact .refl s

theorem Tables.enter_regions (t : Tables) (l w : Nat) (u : Bool) : (t.enter l w u).regions = t.regions := by
  unfold Tables.enter; split <;> rfl

theorem Tables.enter_defaults (t : Tables) (l w : Nat) (u : Bool) : (t.enter l w u).defaults = t.defaults := by
  unfold Tables.enter; split <;> rfl

/-- A detection entered (R90 to R95) is accounting, with whatever retirement it starts. -/
theorem State.enterDetection_accounted (s : State) (l w : Nat) (u : Bool) : Accounted s (s.enterDetection l w u) := by
  unfold State.enterDetection
  refine Accounted.trans ?_ (State.considerOffer_accounted _ _)
  exact .withTables _ _ (Tables.enter_regions ..) (Tables.enter_defaults ..)

theorem State.handCorrected_accounted (s : State) (src : Source) (tag : Option Tag) (l w : Nat) (b : BitPos) :
    Accounted s (s.handCorrected src tag l w b) :=
  ((s.offer_accounted _).trans (State.present_accounted ..)).trans (State.enterDetection_accounted ..)

theorem State.handUncorrectable_accounted (s : State) (src : Source) (tag : Option Tag) (l w : Nat) :
    Accounted s (s.handUncorrectable src tag l w) :=
  ((s.offer_accounted _).trans (State.present_accounted ..)).trans (State.enterDetection_accounted ..)

theorem State.handWord_accounted (src : Source) (tag : Option Tag) (l : Nat) (s : State) (r : WordReport) :
    Accounted s (State.handWord src tag l s r) := by
  unfold State.handWord
  split
  · exact State.handCorrected_accounted ..
  · exact State.handUncorrectable_accounted ..
  all_goals exact .refl s

/-- A fold of accounting is accounting. -/
theorem Accounted.foldl {f : State → WordReport → State} (h : ∀ s r, Accounted s (f s r)) (rs : List WordReport)
    (s : State) : Accounted s (rs.foldl f s) := by
  induction rs generalizing s with
  | nil => exact .refl s
  | cons r rs ih => exact (h s r).trans (ih _)

/-- Handing on the reports of a tenure (R90) is accounting. -/
theorem State.handWords_accounted (s : State) (src : Source) (tag : Option Tag) (l : Nat) (rs : List WordReport) :
    Accounted s (s.handWords src tag l rs) := Accounted.foldl (State.handWord_accounted src tag l) rs s

theorem State.handReadWord_accounted (l : Nat) (s : State) (r : WordReport) : Accounted s (State.handReadWord l s r) := by
  unfold State.handReadWord
  split
  · exact (s.offer_accounted _).trans (State.present_accounted ..)
  all_goals exact State.handWord_accounted ..

theorem State.handDrainWord_accounted (l : Nat) (s : State) (r : WordReport) : Accounted s (State.handDrainWord l s r) := by
  unfold State.handDrainWord
  split
  · exact State.handCorrected_accounted ..
  · exact ((s.offer_accounted _).trans (State.present_accounted ..)).trans (State.enterDetection_accounted ..)
  · exact (s.offer_accounted _).trans (State.present_accounted ..)
  all_goals exact .refl s

theorem State.handCopyWord_accounted (tag : Option Tag) (l : Nat) (s : State) (r : WordReport) :
    Accounted s (State.handCopyWord tag l s r) := by
  unfold State.handCopyWord
  split
  · exact (s.offer_accounted _).trans (State.present_accounted ..)
  · exact (s.offer_accounted _).trans (State.present_accounted ..)
  all_goals exact .refl s

/-- Handing on a Copy Step's words changes no table and no completion (R77). -/
theorem State.handCopyWords_tables (tag : Option Tag) (l : Nat) (rs : List WordReport) (s : State) :
    (rs.foldl (State.handCopyWord tag l) s).tables = s.tables
      ∧ (rs.foldl (State.handCopyWord tag l) s).admission = s.admission := by
  induction rs generalizing s with
  | nil => exact ⟨rfl, rfl⟩
  | cons r rs ih =>
    have h : (State.handCopyWord tag l s r).tables = s.tables ∧ (State.handCopyWord tag l s r).admission = s.admission := by
      unfold State.handCopyWord State.present
      split <;> simp
    exact ⟨(ih _).1.trans h.1, (ih _).2.trans h.2⟩

/-- A good or poisoned word of a tenure hands on nothing (R103, R112, R130, R146). -/
theorem State.handWord_noDetection (src : Source) (tag : Option Tag) (l : Nat) (s : State) (r : WordReport)
    (h : ∀ d, r.decoded = some d → d.1.isDetection = false) : State.handWord src tag l s r = s := by
  unfold State.handWord
  split <;> first | rfl | (rename_i hd; exact absurd (h _ hd) (by simp [DecodeClass.isDetection]))

/-- Reports without a detection hand on nothing. -/
theorem State.handWords_noDetection (src : Source) (tag : Option Tag) (l : Nat) (rs : List WordReport) (s : State)
    (h : ∀ r ∈ rs, ∀ d, r.decoded = some d → d.1.isDetection = false) : s.handWords src tag l rs = s := by
  unfold State.handWords
  induction rs generalizing s with
  | nil => rfl
  | cons r rs ih =>
    rw [List.foldl_cons, State.handWord_noDetection _ _ _ _ _ (h r (List.mem_cons_self ..))]
    exact ih s fun r' hr => h r' (List.mem_cons_of_mem _ hr)

/-! ### The hand-on tables of the statements -/

theorem State.handOn_accounted (s : State) (e : EventRecord) (k : CaptureKind) (counted : Option Bool) :
    Accounted s (s.handOn e k counted) := by
  have presented := (s.offer_accounted e).thenPresent k e.source e.line e.word
  unfold State.handOn
  cases counted with
  | none => exact presented
  | some u => exact presented.trans (State.enterDetection_accounted ..)

/-- Handing on one word is the table of R103, R112, R130 and R146. -/
theorem State.handWord_eq (src : Source) (tag : Option Tag) (l : Nat) (s : State) (r : WordReport) :
    State.handWord src tag l s r = handedOn src tag l s r := by
  unfold State.handWord handedOn
  rcases r.decoded with _ | ⟨_ | _ | _ | _, d⟩ <;> rfl

/-- Handing on the reports of a tenure is that table, word by word. -/
theorem State.handWords_eq (s : State) (src : Source) (tag : Option Tag) (l : Nat) (rs : List WordReport) :
    s.handWords src tag l rs = rs.foldl (handedOn src tag l) s := by
  unfold State.handWords
  congr
  funext t r
  exact State.handWord_eq ..

/-- One word of a host read is R33's table. -/
theorem State.handReadWord_eq (l : Nat) (s : State) (r : WordReport) :
    State.handReadWord l s r = match r.decoded with
      | some (.corrected b, _) => s.handOn { kind := .corrected, source := .hostRead, line := l, word := r.index, bit := b.val }
          (.corrected b) (some false)
      | some (.uncorrectable, _) => s.handOn { kind := .uncorrectable, source := .hostRead, line := l, word := r.index }
          .uncorrectable (some true)
      | some (.poisoned, _) => s.handOn { kind := .poisonRead, source := .hostRead, line := l, word := r.index }
          .poisonRead none
      | some (.good, _) | none => s := by
  unfold State.handReadWord
  rcases hd : r.decoded with _ | ⟨_ | _ | _ | _, d⟩ <;> simp only [State.handWord, hd] <;> rfl

/-- One word of a drain is the table of R37 and R173. -/
theorem State.handDrainWord_eq (l : Nat) (s : State) (r : WordReport) :
    State.handDrainWord l s r = match r.decoded with
      | some (.corrected b, _) => s.handOn { kind := .corrected, source := .hostWrite, line := l, word := r.index, bit := b.val }
          (.corrected b) (some false)
      | some (.uncorrectable, _) => s.handOn { kind := .mergeFailed, source := .hostWrite, line := l, word := r.index }
          .mergeFailed (some true)
      | some (.poisoned, _) => s.handOn { kind := .mergeFailed, source := .hostWrite, line := l, word := r.index }
          .mergeFailed none
      | some (.good, _) | none => s := by
  unfold State.handDrainWord
  rcases r.decoded with _ | ⟨_ | _ | _ | _, d⟩ <;> rfl

/-- One word of a Copy Step is R77's table. -/
theorem State.handCopyWord_eq (tag : Option Tag) (l : Nat) (s : State) (r : WordReport) :
    State.handCopyWord tag l s r = match r.decoded with
      | some (.corrected b, _) => s.handOn
          { kind := .corrected, source := .migration, tag, line := l, word := r.index, bit := b.val } (.corrected b) none
      | some (.uncorrectable, _) => s.handOn
          { kind := .uncorrectable, source := .migration, tag, line := l, word := r.index } .uncorrectable none
      | some (.poisoned, _) | some (.good, _) | none => s := by
  unfold State.handCopyWord
  rcases r.decoded with _ | ⟨_ | _ | _ | _, d⟩ <;> rfl

/-- The same of a list of offers. -/
theorem State.foldl_offer_news_congr {α : Type} (f : α → EventRecord) (l : List α) {s t : State}
    (news : t.news = s.news) (engine : t.engine = s.engine) :
    (l.foldl (fun u a => u.offer (f a)) t).news = (l.foldl (fun u a => u.offer (f a)) s).news := by
  induction l generalizing s t with
  | nil => exact news
  | cons a l ih => exact ih (State.offer_news_congr _ news engine) (by simp [engine])

/-- A refused start: its event, a commanded one's completion, its suspect entry REFUSED, and nothing else (R73). -/
theorem State.refuseStart_eq (s : State) (r : RetireRequest) :
    (s.refuseStart r).engine = s.engine
      ∧ (s.refuseStart r).tables = s.tables.setRetire r.frame .refused
      ∧ (s.refuseStart r).news = (s.offer (retireEvent .retireRefused r.origin r.frame none false 0)).news
      ∧ (s.refuseStart r).admission = { s.admission with backlog := s.admission.backlog ++ match r.origin with
          | .auto => []
          | .command tag => [Completion.plain tag 5#4 .noSpare] } := by
  rcases r with ⟨f, _ | tag, c⟩ <;> simp [State.refuseStart, State.completeOrigin, State.complete, Completion.plain]

/-- A start that finds no FREE spare refuses every queued request, in queue order, and leaves the queue empty (R73). -/
theorem startFrom_noSpare (l : List RetireRequest) (s : State) (retires : s.engine.state.retires = true)
    (idle : s.tables.migration = none) (noSpare : s.tables.lowestFreeSpare = none) (queue : s.tables.retireQueue = l) :
    (startFrom l s).news
        = (l.foldl (fun t r => t.offer (retireEvent .retireRefused r.origin r.frame none false 0)) s).news
      ∧ (startFrom l s).admission = { s.admission with backlog := s.admission.backlog ++ l.filterMap fun r =>
          match r.origin with
          | .auto => none
          | .command tag => some (Completion.plain tag 5#4 .noSpare) }
      ∧ (startFrom l s).tables = { s.tables with
          retireQueue := []
          suspects := s.tables.suspects.map (Option.map fun e =>
            if l.any (·.frame == e.frame) then { e with retire := .refused } else e) } := by
  induction l generalizing s with
  | nil =>
    refine ⟨rfl, by simp [startFrom], ?_⟩
    have same : s.tables.suspects.map (Option.map fun e : SuspectEntry =>
        if ([] : List RetireRequest).any (·.frame == e.frame) then { e with retire := .refused } else e)
          = s.tables.suspects := by simp
    rw [same]
    exact congrArg (fun q => { s.tables with retireQueue := q }) queue
  | cons r l ih =>
    simp only [startFrom]
    rw [if_pos ⟨by simp [idle], retires⟩]
    have noSpare' : ({ s.tables with retireQueue := l } : Tables).lowestFreeSpare = none := noSpare
    simp only [State.withTables_tables, noSpare']
    obtain ⟨engine, tables, news, admission⟩ := (s.withTables { s.tables with retireQueue := l }).refuseStart_eq r
    obtain ⟨news', admission', tables'⟩ := ih _ (by rw [engine]; exact retires) (by rw [tables]; exact idle)
      (by rw [tables]; exact noSpare) (by rw [tables]; rfl)
    refine ⟨?_, ?_, ?_⟩
    · rw [news', List.foldl_cons]
      exact State.foldl_offer_news_congr _ _ (by rw [news]; exact State.offer_news_congr _ rfl rfl) (by rw [engine]; simp)
    · rw [admission', admission]
      rcases r with ⟨f, _ | tag, c⟩ <;> simp
    · rw [tables', tables]
      simp only [Tables.setRetire, State.withTables_tables, List.map_map]
      congr 1
      apply List.map_congr_left
      rintro (_ | e) _
      · rfl
      · simp only [Function.comp, Option.map_some, Option.some.injEq, List.any_cons]
        by_cases same : e.frame = r.frame
        · simp [same]
        · have other : (r.frame == e.frame) = false := by simpa using fun h => same h.symm
          simp [same, other]

/-- An automatic request alone in the queue is taken with no completion, and the queue is then empty (R72 to R74). -/
theorem startFrom_auto (f : Nat) (c : Cause) (u : State) (idle : u.tables.migration.isNone = true)
    (retires : u.engine.state.retires = true) :
    (startFrom [⟨f, .auto, c⟩] u).admission = u.admission ∧ (startFrom [⟨f, .auto, c⟩] u).tables.retireQueue = [] := by
  unfold startFrom
  rw [if_pos ⟨idle, retires⟩]
  simp only [startFrom]
  split
  · simp [State.refuseStart, State.completeOrigin]
  · simp [State.beginMigration]

/-- An automatic request that joins brings no completion where requests wait only behind a migration (R72, R73), and keeps
that so. -/
theorem State.joinQueue_auto_admission (s : State) (f : Nat) (c : Cause)
    (h : s.tables.migration = none → s.tables.retireQueue = []) (retires : s.engine.state.retires = true) :
    (s.joinQueue ⟨f, .auto, c⟩).admission = s.admission
      ∧ ((s.joinQueue ⟨f, .auto, c⟩).tables.migration = none → (s.joinQueue ⟨f, .auto, c⟩).tables.retireQueue = []) := by
  unfold State.joinQueue State.startMigrations
  cases hm : s.tables.migration with
  | some m =>
    simp only [State.withTables_tables, Tables.setRetire_retireQueue]
    generalize s.tables.retireQueue ++ _ = queue
    cases queue with
    | nil => exact ⟨rfl, by simp [startFrom, hm]⟩
    | cons r rest => exact ⟨by simp [startFrom, hm], by simp [startFrom, hm]⟩
  | none =>
    simp only [State.withTables_tables, Tables.setRetire_retireQueue, h hm, List.nil_append]
    have alone := startFrom_auto f c (s.withTables ({ s.tables with
      retireQueue := [⟨f, .auto, c⟩] }.setRetire f .queued)) (by simp [hm]) (by simpa using retires)
    exact ⟨alone.1, fun _ => by simpa using alone.2⟩

/-- Where requests wait only behind a migration (R72), a detection brings no completion and keeps that so. -/
theorem State.enterDetection_admission (s : State) (l w : Nat) (u : Bool)
    (h : s.tables.migration = none → s.tables.retireQueue = []) :
    (s.enterDetection l w u).admission = s.admission
      ∧ ((s.enterDetection l w u).tables.migration = none → (s.enterDetection l w u).tables.retireQueue = []) := by
  have h' : (s.withTables (s.tables.enter l w u)).tables.migration = none →
      (s.withTables (s.tables.enter l w u)).tables.retireQueue = [] := by
    unfold Tables.enter
    split <;> exact h
  unfold State.enterDetection State.considerOffer
  split
  · exact ⟨rfl, h'⟩
  · split
    · rename_i conditions
      unfold State.offerAuto
      split
      · exact ⟨rfl, h'⟩
      · split
        · exact ⟨by simp, by simpa using h'⟩
        · exact State.joinQueue_auto_admission _ _ _ h' conditions.1
    · exact ⟨rfl, h'⟩

/-- Where requests wait only behind a migration (R72), handing on a finding brings no completion and keeps that so. -/
theorem State.handOn_admission (s : State) (e : EventRecord) (k : CaptureKind) (counted : Option Bool)
    (h : s.tables.migration = none → s.tables.retireQueue = []) :
    (s.handOn e k counted).admission = s.admission
      ∧ ((s.handOn e k counted).tables.migration = none → (s.handOn e k counted).tables.retireQueue = []) := by
  have presented : ((s.offer e).present k e.source e.line e.word).tables.migration = none →
      ((s.offer e).present k e.source e.line e.word).tables.retireQueue = [] := by
    simpa [State.present] using h
  unfold State.handOn
  cases counted with
  | none => exact ⟨by simp [State.present], presented⟩
  | some u =>
    have entered := State.enterDetection_admission _ e.line e.word u presented
    exact ⟨entered.1.trans (by simp [State.present]), entered.2⟩

/-- Handing on the words of a fetch, an anchor read, a patrol tenure or a slot's tenure brings no completion where requests
wait only behind a migration (R72). -/
theorem handedOn_admission (src : Source) (tag : Option Tag) (l : Nat) (rs : List WordReport) (s : State)
    (h : s.tables.migration = none → s.tables.retireQueue = []) :
    (rs.foldl (handedOn src tag l) s).admission = s.admission := by
  induction rs generalizing s with
  | nil => rfl
  | cons r rs ih =>
    have one : (handedOn src tag l s r).admission = s.admission
        ∧ ((handedOn src tag l s r).tables.migration = none → (handedOn src tag l s r).tables.retireQueue = []) := by
      unfold handedOn
      rcases r.decoded with _ | ⟨_ | _ | _ | _, d⟩
      · exact ⟨rfl, h⟩
      · exact ⟨rfl, h⟩
      · exact State.handOn_admission _ _ _ _ h
      · exact State.handOn_admission _ _ _ _ h
      · exact ⟨rfl, h⟩
    rw [List.foldl_cons, ih _ one.2, one.1]

end Sys2Proof.Machine
end

