-- ==== Sys2Proof/Laws/Memory.lean ====
section
/-!
SUPPORT. The laws of memory: a read after a write, the canonical form kept by every operation (log 4), and the keys of
distinct words.
-/

namespace Sys2Proof.Machine

/-! ### The list of stored words -/

theorem cellsRise_cons (a : Nat) (w : StoredWord) (cs : List (Nat × StoredWord)) :
    cellsRise ((a, w) :: cs) = true ↔ (∀ c ∈ cs, a < c.1) ∧ cellsRise cs = true := by
  induction cs generalizing a w with
  | nil => simp [cellsRise]
  | cons c cs ih =>
    obtain ⟨b, v⟩ := c
    simp only [cellsRise, Bool.and_eq_true, decide_eq_true_eq, List.mem_cons, forall_eq_or_imp]
    constructor
    · rintro ⟨hab, h⟩
      exact ⟨⟨hab, fun c hc => lt_trans hab (((ih b v).1 h).1 c hc)⟩, h⟩
    · rintro ⟨⟨hab, _⟩, h⟩
      exact ⟨hab, h⟩

theorem cellInsert_keys (cs : List (Nat × StoredWord)) (k : Nat) (v : StoredWord) (c : Nat × StoredWord)
    (h : c ∈ cellInsert cs k v) : c = (k, v) ∨ c ∈ cs := by
  induction cs with
  | nil => simpa [cellInsert] using h
  | cons d cs ih =>
    obtain ⟨a, w⟩ := d
    simp only [cellInsert] at h
    split at h
    · simpa using h
    · split at h
      · rcases List.mem_cons.1 h with h | h
        · exact .inl h
        · exact .inr (List.mem_cons_of_mem _ h)
      · rcases List.mem_cons.1 h with h | h
        · exact .inr (h ▸ List.mem_cons_self ..)
        · exact (ih h).imp id (List.mem_cons_of_mem _)

/-- An insertion keeps the keys strictly rising. -/
theorem cellsRise_cellInsert (cs : List (Nat × StoredWord)) (k : Nat) (v : StoredWord) (h : cellsRise cs = true) :
    cellsRise (cellInsert cs k v) = true := by
  induction cs with
  | nil => rfl
  | cons d cs ih =>
    obtain ⟨a, w⟩ := d
    have hd := (cellsRise_cons a w cs).1 h
    simp only [cellInsert]
    split
    · rename_i hk
      refine (cellsRise_cons ..).2 ⟨fun c hc => ?_, h⟩
      rcases List.mem_cons.1 hc with rfl | hc
      · exact hk
      · exact lt_trans hk (hd.1 c hc)
    · split
      · rename_i hk
        exact (cellsRise_cons ..).2 ⟨fun c hc => hk ▸ hd.1 c hc, hd.2⟩
      · rename_i h1 h2
        refine (cellsRise_cons ..).2 ⟨fun c hc => ?_, ih hd.2⟩
        rcases cellInsert_keys _ _ _ _ hc with rfl | hc
        · exact lt_of_le_of_ne (Nat.le_of_not_lt h1) (Ne.symm h2)
        · exact hd.1 c hc

/-- The inserted word is found. -/
@[simp] theorem cellLookup_cellInsert_same (cs : List (Nat × StoredWord)) (k : Nat) (v : StoredWord) :
    cellLookup (cellInsert cs k v) k = some v := by
  induction cs with
  | nil => simp [cellInsert, cellLookup]
  | cons d cs ih =>
    obtain ⟨a, w⟩ := d
    simp only [cellInsert]
    split
    · simp [cellLookup]
    · split
      · simp [cellLookup]
      · rename_i h1 h2
        simp [cellLookup, Ne.symm h2, h1, ih]

/-- Every other key is found as before. -/
theorem cellLookup_cellInsert_ne (cs : List (Nat × StoredWord)) (k j : Nat) (v : StoredWord) (hj : j ≠ k) :
    cellLookup (cellInsert cs k v) j = cellLookup cs j := by
  induction cs with
  | nil => simp [cellInsert, cellLookup, Ne.symm hj]
  | cons d cs ih =>
    obtain ⟨a, w⟩ := d
    simp only [cellInsert]
    split
    · rename_i hk
      simp only [cellLookup, if_neg (Ne.symm hj)]
      split
      · rename_i hjk
        have hja : j < a := lt_trans hjk hk
        simp [hja, Ne.symm (ne_of_lt hja)]
      · rfl
    · split
      · rename_i hk
        subst hk
        simp [cellLookup, Ne.symm hj]
      · simp [cellLookup, ih]

/-! ### Memory -/

@[simp] theorem Memory.write_epoch (m : Memory) (k : Nat) (w : StoredWord) : (m.write k w).epoch = m.epoch := rfl

/-- A read after a write to the same word gives what was written. -/
@[simp] theorem Memory.read_write_same (m : Memory) (k : Nat) (w : StoredWord) : (m.write k w).read k = w := by
  simp [Memory.read, Memory.write]

/-- A write leaves every other word as it was. -/
theorem Memory.read_write_ne (m : Memory) (k j : Nat) (w : StoredWord) (h : j ≠ k) :
    (m.write k w).read j = m.read j := by
  simp [Memory.read, Memory.write, cellLookup_cellInsert_ne _ _ _ _ h]

/-- A write keeps the canonical form. -/
theorem Memory.wf_write (m : Memory) (k : Nat) (w : StoredWord) (h : m.wf = true) : (m.write k w).wf = true :=
  cellsRise_cellInsert _ _ _ h

@[simp] theorem Memory.writeAll_nil (m : Memory) : m.writeAll [] = m := rfl

@[simp] theorem Memory.writeAll_cons (m : Memory) (k : Nat) (w : StoredWord) (ws : List (Nat × StoredWord)) :
    m.writeAll ((k, w) :: ws) = (m.write k w).writeAll ws := rfl

theorem Memory.writeAll_append (m : Memory) (ws vs : List (Nat × StoredWord)) :
    m.writeAll (ws ++ vs) = (m.writeAll ws).writeAll vs := by
  induction ws generalizing m with
  | nil => rfl
  | cons c ws ih => exact ih (m.write c.1 c.2)

/-- The writes of a tenure keep the canonical form. -/
theorem Memory.wf_writeAll (m : Memory) (ws : List (Nat × StoredWord)) (h : m.wf = true) : (m.writeAll ws).wf = true := by
  induction ws generalizing m with
  | nil => exact h
  | cons c ws ih => exact ih _ (m.wf_write c.1 c.2 h)

/-- The writes of a tenure leave every word they do not name as it was. -/
theorem Memory.read_writeAll_of_notMem (m : Memory) (ws : List (Nat × StoredWord)) (j : Nat)
    (h : ∀ c ∈ ws, c.1 ≠ j) : (m.writeAll ws).read j = m.read j := by
  induction ws generalizing m with
  | nil => rfl
  | cons c ws ih =>
    have hc : j ≠ c.1 := Ne.symm (h c (List.mem_cons_self ..))
    rw [show m.writeAll (c :: ws) = (m.write c.1 c.2).writeAll ws from rfl,
      ih _ fun d hd => h d (List.mem_cons_of_mem _ hd), Memory.read_write_ne _ _ _ _ hc]

/-- A word the writes of a tenure name, always with the same value, reads as that value. -/
theorem Memory.read_writeAll_of_mem (m : Memory) (ws : List (Nat × StoredWord)) (j : Nat) (v : StoredWord)
    (hv : ∀ c ∈ ws, c.1 = j → c.2 = v) (h : ∃ c ∈ ws, c.1 = j) : (m.writeAll ws).read j = v := by
  induction ws generalizing m with
  | nil => simp at h
  | cons c ws ih =>
    rw [show m.writeAll (c :: ws) = (m.write c.1 c.2).writeAll ws from rfl]
    by_cases hw : ∃ d ∈ ws, d.1 = j
    · exact ih _ (fun d hd => hv d (List.mem_cons_of_mem _ hd)) hw
    · have hc : c.1 = j := by
        obtain ⟨d, hd, hj⟩ := h
        rcases List.mem_cons.1 hd with rfl | hd
        · exact hj
        · exact absurd ⟨d, hd, hj⟩ hw
      rw [Memory.read_writeAll_of_notMem _ _ _ fun d hd hj => hw ⟨d, hd, hj⟩, ← hc, Memory.read_write_same]
      exact hv c (List.mem_cons_self ..) hc

/-- Distinct words of physical lines have distinct keys (R2). -/
theorem wordKey_inj {l l' w w' : Nat} (hw : w < 8) (hw' : w' < 8) (h : wordKey l w = wordKey l' w') : l = l' ∧ w = w' := by
  unfold wordKey at h
  omega

/-- A tenure begins: memory takes its writes, and the arbiter's records stand (R17). -/
@[simp] theorem State.beginTenure_memory (s : State) (work : Work) (line : Nat) (e : TenureEffect) :
    (s.beginTenure work line e).memory = s.memory.writeAll e.writes := rfl

end Sys2Proof.Machine
end

