-- ==== Sys2Proof/Laws/Working.lean ====
section
/-!
SUPPORT. What the blocks behind the channel can do, said once: issue, slots, ABORT, the judgement of a record, halts,
engine reset and the index registers leave the pins, the straps, memory, the port, the queue of commands and the
arbiter's last slot and guard count alone. Each law is a simp lemma on `State.kept`, the groups they leave alone.
-/

namespace Sys2Proof.Machine

/-- What the blocks behind the channel leave alone. -/
structure Kept where
  resetAsserted : Bool
  straps : Straps
  attn : Bool
  memory : Memory
  port : Port
  pending : List Instr
  lastSlot : Nat
  guard : Nat

/-- What the blocks behind the channel leave alone, as it stands in a state. -/
def State.kept (s : State) : Kept :=
  ⟨s.resetAsserted, s.straps, s.attn, s.memory, s.port, s.pending, s.arbiter.lastSlot, s.arbiter.guard⟩

@[simp] theorem State.withTables_kept (s : State) (x : Tables) : (s.withTables x).kept = s.kept := rfl
@[simp] theorem State.withAdmission_kept (s : State) (x : Admission) : (s.withAdmission x).kept = s.kept := rfl
@[simp] theorem State.withPatrol_kept (s : State) (x : Patrol) : (s.withPatrol x).kept = s.kept := rfl
@[simp] theorem State.withEngine_kept (s : State) (x : Engine) : (s.withEngine x).kept = s.kept := rfl
@[simp] theorem State.withNews_kept (s : State) (x : News) : (s.withNews x).kept = s.kept := rfl
@[simp] theorem State.complete_kept (s : State) (c : Completion) : (s.complete c).kept = s.kept := rfl
@[simp] theorem State.setSlot_kept (s : State) (k : Nat) (sl : Option Slot) : (s.setSlot k sl).kept = s.kept := rfl
@[simp] theorem State.discardTenure_kept (s : State) (f : Work → Bool) : (s.discardTenure f).kept = s.kept := rfl
@[simp] theorem State.freeChannel_kept (s : State) : (s.freeChannel).kept = s.kept := rfl
@[simp] theorem State.modifyEngine_kept (s : State) (f : Engine → Engine) : (s.modifyEngine f).kept = s.kept := rfl
@[simp] theorem State.present_kept (s : State) (k : CaptureKind) (src : Source) (line word : Nat) : (s.present k src line word).kept = s.kept := rfl
@[simp] theorem State.abortPending_kept (s : State) (p : PendingCommand) : (s.abortPending p).kept = s.kept := rfl
@[simp] theorem State.abortWaitingSlot_kept (s : State) (k : Nat) (sl : Slot) : (s.abortWaitingSlot k sl).kept = s.kept := rfl
@[simp] theorem State.advanceFetch_kept (s : State) : (s.advanceFetch).kept = s.kept := rfl
@[simp] theorem State.failStart_kept (s : State) (e : StartError) : (s.failStart e).kept = s.kept := rfl
@[simp] theorem State.advanceCursor_kept (s : State) (m : MigrationRecord) : (s.advanceCursor m).kept = s.kept := rfl

/-- Accounting leaves them alone. -/
theorem Accounted.kept {s t : State} (h : Accounted s t) : t.kept = s.kept := by
  unfold State.kept
  rw [h.resetAsserted, h.straps, h.attn, h.memory, h.port, h.pending, h.arbiter]

@[simp] theorem State.offer_kept (s : State) (e : EventRecord) : (s.offer e).kept = s.kept :=
  (s.offer_accounted ..).kept
@[simp] theorem State.startMigrations_kept (s : State) : (s.startMigrations).kept = s.kept :=
  (s.startMigrations_accounted).kept
@[simp] theorem State.joinQueue_kept (s : State) (r : RetireRequest) : (s.joinQueue r).kept = s.kept :=
  (s.joinQueue_accounted ..).kept
@[simp] theorem State.handWords_kept (s : State) (src : Source) (tag : Option Tag) (l : Nat) (rs : List WordReport) : (s.handWords src tag l rs).kept = s.kept :=
  (s.handWords_accounted ..).kept
@[simp] theorem State.completeOrigin_kept (s : State) (o : Origin) (st : Status) (l c u p : Nat) (r : BitVec 28) : (s.completeOrigin o st l c u p r).kept = s.kept :=
  (s.completeOrigin_accounted ..).kept

/-- The fold of completions at a slot's end. -/
@[simp] theorem State.foldl_complete_kept (l : List Completion) (s : State) : (l.foldl State.complete s).kept = s.kept := by
  induction l generalizing s with
  | nil => rfl
  | cons c l ih => simp [ih]

/-! ### Issue -/

@[simp] theorem State.issueRetire_kept (s : State) (tag : Tag) (f : Nat) : (s.issueRetire tag f).kept = s.kept := by
  unfold State.issueRetire
  repeat' split
  all_goals simp

@[simp] theorem State.issueInstall_kept (s : State) (tag : Tag) (f k : Nat) : (s.issueInstall tag f k).kept = s.kept := by
  unfold State.issueInstall
  repeat' split
  all_goals simp

@[simp] theorem State.issueWithdraw_kept (s : State) (tag : Tag) (k : Nat) : (s.issueWithdraw tag k).kept = s.kept := by
  unfold State.issueWithdraw
  dsimp only
  repeat' split
  all_goals simp

@[simp] theorem State.issueQuery_kept (s : State) (tag : Tag) (f : Nat) : (s.issueQuery tag f).kept = s.kept := by
  unfold State.issueQuery
  simp

@[simp] theorem State.issueClearSuspect_kept (s : State) (tag : Tag) (f : Nat) : (s.issueClearSuspect tag f).kept = s.kept := by
  unfold State.issueClearSuspect
  dsimp only
  repeat' split
  all_goals simp

@[simp] theorem State.occupySlot_kept (s : State) (tag : Tag) (c : SlotCommand) : (s.occupySlot tag c).kept = s.kept := by
  unfold State.occupySlot
  repeat' split
  all_goals simp

/-- What the head does when it issues (R134, R137). -/
@[simp] theorem State.issueCommand_kept (s : State) (tag : Tag) (c : Command) : (s.issueCommand tag c).kept = s.kept := by
  cases c <;> simp [State.issueCommand, State.issueSetRegion, State.issueSetPatrol, State.issueFence]

theorem issueFrom_kept (l : List PendingCommand) (s : State) : (issueFrom l s).kept = s.kept := by
  induction l generalizing s with
  | nil => rfl
  | cons p rest ih =>
    unfold issueFrom
    split
    · simp [ih]
    · rfl

/-- The judgement of the head for issue (R135), however many commands issue. -/
@[simp] theorem State.issueAll_kept (s : State) : s.issueAll.kept = s.kept := issueFrom_kept ..

/-! ### Slots, ABORT and records -/

@[simp] theorem State.endSlot_kept (s : State) (k : Nat) (sl : Slot) (st : Status) : (s.endSlot k sl st).kept = s.kept := by
  unfold State.endSlot
  simp

/-- The end of a slot's tenure (R139). -/
@[simp] theorem State.endSlotTenure_kept (s : State) (k : Nat) (sl : Slot) (line : Nat) (rs : List WordReport) : (s.endSlotTenure k sl line rs).kept = s.kept := by
  unfold State.endSlotTenure
  dsimp only
  repeat' split
  all_goals simp

@[simp] theorem State.abortQueued_kept (s : State) (r : RetireRequest) : (s.abortQueued r).kept = s.kept := by
  unfold State.abortQueued
  dsimp only
  all_goals simp

@[simp] theorem State.abortMigration_kept (s : State) (m : MigrationRecord) : (s.abortMigration m).kept = s.kept := by
  unfold State.abortMigration
  dsimp only
  all_goals simp

/-- An ABORT carried out (R132, R133). -/
@[simp] theorem State.abort_kept (s : State) (tag target : Tag) : (s.abort tag target).kept = s.kept := by
  unfold State.abort
  repeat' split
  all_goals simp

@[simp] theorem State.enlist_kept (s : State) (tag : Tag) (c : Command) : (s.enlist tag c).kept = s.kept := by
  unfold State.enlist
  simp

/-- A record judged, and refused, carried out or admitted (R131). -/
@[simp] theorem State.takeRecord_kept (s : State) (r : CommandRecord) : (s.takeRecord r).kept = s.kept := by
  unfold State.takeRecord
  repeat' split
  all_goals simp

/-! ### Migration and patrol -/

@[simp] theorem State.foldl_handCopyWord_kept (tag : Option Tag) (l : Nat) (rs : List WordReport) (s : State) :
    (rs.foldl (State.handCopyWord tag l) s).kept = s.kept :=
  (Accounted.foldl (State.handCopyWord_accounted tag l) rs s).kept

@[simp] theorem State.foldl_handReadWord_kept (l : Nat) (rs : List WordReport) (s : State) :
    (rs.foldl (State.handReadWord l) s).kept = s.kept :=
  (Accounted.foldl (State.handReadWord_accounted l) rs s).kept

@[simp] theorem State.foldl_handDrainWord_kept (l : Nat) (rs : List WordReport) (s : State) :
    (rs.foldl (State.handDrainWord l) s).kept = s.kept :=
  (Accounted.foldl (State.handDrainWord_accounted l) rs s).kept

@[simp] theorem State.offerSpareFailed_kept (s : State) (m : MigrationRecord) : (s.offerSpareFailed m).kept = s.kept := by
  unfold State.offerSpareFailed
  repeat' split
  all_goals simp

/-- Cut-over (R78, R79). -/
@[simp] theorem State.cutOver_kept (s : State) (m : MigrationRecord) : (s.cutOver m).kept = s.kept := by
  unfold State.cutOver
  dsimp only
  all_goals simp

/-- The end of a Copy Step (R76). -/
@[simp] theorem State.endCopyStep_kept (s : State) (m : MigrationRecord) (line : Nat) (rs : List WordReport) : (s.endCopyStep m line rs).kept = s.kept := by
  unfold State.endCopyStep
  dsimp only
  split
  all_goals simp

/-- The end of a pass (R104). -/
@[simp] theorem State.endPass_kept (s : State) : (s.endPass).kept = s.kept := by
  unfold State.endPass
  dsimp only
  all_goals simp

@[simp] theorem State.patrolMovesOn_kept (s : State) (line : Nat) : (s.patrolMovesOn line).kept = s.kept := by
  unfold State.patrolMovesOn
  repeat' split
  all_goals simp

@[simp] theorem State.expire_kept (s : State) : (s.expire).kept = s.kept := by
  unfold State.expire
  repeat' split
  all_goals simp

/-! ### Engine Control -/

/-- A halt (R122, R123). -/
@[simp] theorem State.halt_kept (s : State) (c : HaltCause) : (s.halt c).kept = s.kept := by
  unfold State.halt
  repeat' split
  all_goals simp

/-- An engine reset (R124) writes no memory and touches no port. -/
@[simp] theorem State.engineReset_kept (s : State) : (s.engineReset).kept = s.kept := by
  unfold State.engineReset
  dsimp only
  all_goals simp

@[simp] theorem State.quiesceTest_kept (s : State) : (s.quiesceTest).kept = s.kept := by
  unfold State.quiesceTest
  repeat' split
  all_goals simp

@[simp] theorem State.startAction_kept (s : State) : (s.startAction).kept = s.kept := by
  unfold State.startAction State.startFromOff
  dsimp only
  repeat' split
  all_goals simp

@[simp] theorem State.quiesceAction_kept (s : State) : (s.quiesceAction).kept = s.kept := by
  unfold State.quiesceAction
  repeat' split
  all_goals simp

/-- A CTRL write taking effect (R109). -/
@[simp] theorem State.writeCtrl_kept (s : State) (v : BitVec 32) : (s.writeCtrl v).kept = s.kept := by
  unfold State.writeCtrl
  dsimp only
  repeat' split
  all_goals simp

@[simp] theorem State.writeSqTail_kept (s : State) (v : BitVec 16) : (s.writeSqTail v).kept = s.kept := by
  unfold State.writeSqTail
  repeat' split
  all_goals simp

@[simp] theorem State.writeCqHead_kept (s : State) (v : BitVec 16) : (s.writeCqHead v).kept = s.kept := by
  unfold State.writeCqHead
  repeat' split
  all_goals simp

@[simp] theorem State.writeEqHead_kept (s : State) (v : BitVec 16) : (s.writeEqHead v).kept = s.kept := by
  unfold State.writeEqHead
  repeat' split
  all_goals simp

/-- A posted register write delivered to Engine Control (R41). -/
@[simp] theorem State.deliver_kept (s : State) (target : PostedRegister) (v : BitVec 32) :
    (s.deliver target v).kept = s.kept := by
  cases target <;> simp [State.deliver]

@[simp] theorem State.judgeIndices_kept (s : State) (a : AnchorRecord) : (s.judgeIndices a).kept = s.kept := by
  unfold State.judgeIndices
  repeat' split
  all_goals simp

@[simp] theorem State.acceptAnchor_kept (s : State) (a : AnchorRecord) : (s.acceptAnchor a).kept = s.kept := by
  unfold State.acceptAnchor
  simp

/-- The end of the anchor read (R112 to R114). -/
@[simp] theorem State.endAnchorRead_kept (s : State) (line : Nat) (rs : List WordReport) : (s.endAnchorRead line rs).kept = s.kept := by
  unfold State.endAnchorRead
  dsimp only
  repeat' split
  all_goals simp

/-- The end of a fetch (R130). -/
@[simp] theorem State.endFetch_kept (s : State) (line : Nat) (rs : List WordReport) : (s.endFetch line rs).kept = s.kept := by
  unfold State.endFetch
  dsimp only
  repeat' split
  all_goals simp

end Sys2Proof.Machine
end

