-- ==== Sys2Proof/Laws/Channel.lean ====
section
/-!
SUPPORT. What the arbiter's grants can do, said once: they leave the pins, the straps, the port and the queue of commands
alone, memory changes by the writes of the granted tenure only, and the bound on the refused grants is never met.
-/

namespace Sys2Proof.Machine

/-- What the arbiter's grants leave alone. -/
structure Outside where
  resetAsserted : Bool
  straps : Straps
  port : Port
  pending : List Instr

/-- What the arbiter's grants leave alone, as it stands in a state. -/
def State.outside (s : State) : Outside := ⟨s.resetAsserted, s.straps, s.port, s.pending⟩

theorem State.outside_of_kept {s t : State} (h : t.kept = s.kept) : t.outside = s.outside := by
  simp only [State.kept, Kept.mk.injEq] at h
  simp [State.outside, h]

theorem State.memory_of_kept {s t : State} (h : t.kept = s.kept) : t.memory = s.memory := by
  simp only [State.kept, Kept.mk.injEq] at h
  exact h.2.2.2.1

@[simp] theorem State.withTables_outside (s : State) (x : Tables) : (s.withTables x).outside = s.outside := rfl
@[simp] theorem State.withAdmission_outside (s : State) (x : Admission) : (s.withAdmission x).outside = s.outside := rfl
@[simp] theorem State.withPatrol_outside (s : State) (x : Patrol) : (s.withPatrol x).outside = s.outside := rfl
@[simp] theorem State.withNews_outside (s : State) (x : News) : (s.withNews x).outside = s.outside := rfl
@[simp] theorem State.withAttn_outside (s : State) (x : Bool) : (s.withAttn x).outside = s.outside := rfl
@[simp] theorem State.modifyEngine_outside (s : State) (f : Engine → Engine) : (s.modifyEngine f).outside = s.outside := rfl
@[simp] theorem State.setSlot_outside (s : State) (k : Nat) (sl : Option Slot) : (s.setSlot k sl).outside = s.outside := rfl
@[simp] theorem State.noteGrant_outside (s : State) (r : Requester) : (s.noteGrant r).outside = s.outside := rfl
@[simp] theorem State.noteGrant_memory (s : State) (r : Requester) : (s.noteGrant r).memory = s.memory := rfl
@[simp] theorem State.beginTenure_outside (s : State) (w : Work) (l : Nat) (e : TenureEffect) :
    (s.beginTenure w l e).outside = s.outside := rfl
@[simp] theorem State.endSlot_outside (s : State) (k : Nat) (sl : Slot) (st : Status) :
    (s.endSlot k sl st).outside = s.outside := State.outside_of_kept (State.endSlot_kept ..)
@[simp] theorem State.endSlot_memory (s : State) (k : Nat) (sl : Slot) (st : Status) :
    (s.endSlot k sl st).memory = s.memory := State.memory_of_kept (State.endSlot_kept ..)
@[simp] theorem State.quiesceTest_outside (s : State) : s.quiesceTest.outside = s.outside :=
  State.outside_of_kept (State.quiesceTest_kept s)
@[simp] theorem State.quiesceTest_memory (s : State) : s.quiesceTest.memory = s.memory :=
  State.memory_of_kept (State.quiesceTest_kept s)

/-- A grant (R22, R25) leaves the pins, the straps, the port and the queue alone. -/
@[simp] theorem State.grant_outside (s : State) (r : Requester) : (s.grant r).outside = s.outside := by
  cases r <;> simp only [State.grant]
  · unfold State.grantPort; split <;> simp
  · unfold State.grantMigration; split <;> simp
  · unfold State.grantRing State.postCompletion State.postEvent
    dsimp only
    split <;> simp
  · unfold State.grantSlot; split <;> simp
  · unfold State.grantPatrol; dsimp only; split <;> simp

/-- A grant changes memory by the writes of its tenure only (R17). -/
theorem State.grant_memory (s : State) (r : Requester) : ∃ ws, (s.grant r).memory = s.memory.writeAll ws := by
  cases r <;> simp only [State.grant]
  · unfold State.grantPort
    split
    · exact ⟨_, rfl⟩
    · exact ⟨_, rfl⟩
    · exact ⟨[], rfl⟩
  · unfold State.grantMigration
    split
    · exact ⟨_, rfl⟩
    · exact ⟨[], rfl⟩
  · unfold State.grantRing State.postCompletion State.postEvent
    dsimp only
    split
    · exact ⟨_, rfl⟩
    · exact ⟨_, rfl⟩
    · exact ⟨_, rfl⟩
    · exact ⟨_, rfl⟩
    · exact ⟨[], rfl⟩
  · unfold State.grantSlot
    split
    · exact ⟨_, rfl⟩
    · exact ⟨[], rfl⟩
  · unfold State.grantPatrol
    dsimp only
    split
    · exact ⟨_, rfl⟩
    · exact ⟨[], rfl⟩
    · exact ⟨[], rfl⟩

/-- The arbiter leaves a busy channel alone (R22). -/
theorem State.arbitrate_busy (s : State) (h : s.arbiter.tenure.isSome = true) : s.arbitrate = s := by
  simp [State.arbitrate, arbitrateFrom, h]

theorem arbitrateFrom_outside (n : Nat) (s : State) : (arbitrateFrom n s).outside = s.outside := by
  induction n generalizing s with
  | zero => rfl
  | succ n ih =>
    unfold arbitrateFrom
    split
    · rfl
    · split
      · rfl
      · split
        · simp [ih, State.endRefusedSlot]
        · simp

theorem arbitrateFrom_memory (n : Nat) (s : State) : ∃ ws, (arbitrateFrom n s).memory = s.memory.writeAll ws := by
  induction n generalizing s with
  | zero => exact ⟨[], rfl⟩
  | succ n ih =>
    unfold arbitrateFrom
    split
    · exact ⟨[], rfl⟩
    · split
      · exact ⟨[], rfl⟩
      · split
        · obtain ⟨ws, h⟩ := ih ((s.noteGrant _).endRefusedSlot _ _)
          exact ⟨ws, by rw [h]; simp [State.endRefusedSlot]⟩
        · exact State.grant_memory (s.noteGrant _) _

/-- The end of a happening leaves the pins, the straps, the port and the queue alone. -/
@[simp] theorem State.conclude_outside (s : State) : s.conclude.outside = s.outside := by
  simp [State.conclude, State.settleAttn, State.arbitrate, arbitrateFrom_outside]

/-- The end of a happening changes memory by the writes of the granted tenure only. -/
theorem State.conclude_memory (s : State) : ∃ ws, s.conclude.memory = s.memory.writeAll ws := by
  obtain ⟨ws, h⟩ := arbitrateFrom_memory (occupied s.admission.slots + s.admission.pendingList.length + 1) s
  exact ⟨ws, by simp [State.conclude, State.settleAttn, State.arbitrate, h]⟩

/-! ### The refused grants of one happening -/

/-- The commands that could still be refused in this happening: those in slots and those in the list. -/
def State.commandsWaiting (s : State) : Nat := occupied s.admission.slots + s.admission.pendingList.length

/-- Filling a free place, or emptying an occupied one, moves the count of occupied places by one. -/
theorem occupied_set {α : Type} (l : List (Option α)) (k : Nat) (x : Option α) :
    occupied (l.set k x) + (if k < l.length ∧ (placeAt l k).isSome = true then 1 else 0)
      = occupied l + (if k < l.length ∧ x.isSome = true then 1 else 0) := by
  induction l generalizing k with
  | nil => simp [occupied]
  | cons a l ih =>
    cases k with
    | zero => cases a <;> cases x <;> simp [occupied, placeAt]
    | succ k =>
      have := ih k
      have place : placeAt (a :: l) (k + 1) = placeAt l k := by simp [placeAt]
      rw [place]
      simp only [List.set_cons_succ, List.length_cons, Nat.add_lt_add_iff_right]
      cases a <;> simp only [occupied, List.filter_cons, Option.isSome_none, Option.isSome_some, Bool.false_eq_true,
        if_false, if_true, List.length_cons] at this ⊢ <;> omega

/-- Issue at most moves the head from the list into an empty slot (R134). -/
theorem State.issueCommand_slots (s : State) (tag : Tag) (c : Command) :
    (s.issueCommand tag c).admission.pendingList = s.admission.pendingList
      ∧ occupied (s.issueCommand tag c).admission.slots ≤ occupied s.admission.slots + 1 := by
  cases c with
  | slot c =>
    simp only [State.issueCommand, State.occupySlot]
    split
    · rename_i k _
      refine ⟨rfl, ?_⟩
      have := occupied_set s.admission.slots k (some (Slot.taken tag c))
      simp only [State.setSlot, State.withAdmission_admission]
      split at this <;> split at this <;> omega
    · exact ⟨rfl, Nat.le_succ _⟩
  | retire f =>
    simp only [State.issueCommand, State.issueRetire]
    repeat' split
    · exact ⟨rfl, Nat.le_succ _⟩
    · exact ⟨rfl, Nat.le_succ _⟩
    · exact ⟨(State.joinQueue_accounted ..).pendingList, by rw [(State.joinQueue_accounted ..).slots]; exact Nat.le_succ _⟩
  | install f k =>
    simp only [State.issueCommand, State.issueInstall]
    split <;> exact ⟨rfl, Nat.le_succ _⟩
  | withdrawSpare k =>
    simp only [State.issueCommand, State.issueWithdraw]
    split <;> exact ⟨rfl, Nat.le_succ _⟩
  | clearSuspect f =>
    simp only [State.issueCommand, State.issueClearSuspect]
    repeat' split
    all_goals exact ⟨rfl, Nat.le_succ _⟩
  | query _ | setRegion _ _ _ _ _ | setPatrol _ _ _ | fence | abort _ => exact ⟨rfl, Nat.le_succ _⟩

theorem issueFrom_commandsWaiting (l : List PendingCommand) (s : State) (h : s.admission.pendingList = l) :
    (issueFrom l s).commandsWaiting ≤ s.commandsWaiting := by
  induction l generalizing s with
  | nil => exact Nat.le_refl _
  | cons p rest ih =>
    unfold issueFrom
    split
    · have issued := State.issueCommand_slots (s.withAdmission { s.admission with pendingList := rest }) p.tag p.command
      refine Nat.le_trans (ih _ issued.1) ?_
      have fewer := issued.2
      simp only [State.commandsWaiting, issued.1, State.withAdmission_admission, h, List.length_cons] at fewer ⊢
      omega
    · exact Nat.le_refl _

/-- Issue brings no command that was not waiting already (R135). -/
theorem State.issueAll_commandsWaiting (s : State) : s.issueAll.commandsWaiting ≤ s.commandsWaiting :=
  issueFrom_commandsWaiting _ s rfl

theorem State.foldl_complete_slots (l : List Completion) (s : State) :
    (l.foldl State.complete s).admission.slots = s.admission.slots
      ∧ (l.foldl State.complete s).admission.pendingList = s.admission.pendingList := by
  induction l generalizing s with
  | nil => exact ⟨rfl, rfl⟩
  | cons c l ih => exact ih (s.complete c)

/-- A slot that ends leaves one command fewer waiting (R133, R139). -/
theorem State.endSlot_commandsWaiting (s : State) (k : Nat) (sl x : Slot) (st : Status) (h : s.slotAt k = some x) :
    (s.endSlot k sl st).commandsWaiting < s.commandsWaiting := by
  unfold State.endSlot
  refine Nat.lt_of_le_of_lt (State.issueAll_commandsWaiting _) ?_
  have ended := State.foldl_complete_slots (sl.completions st) s
  have inside : k < s.admission.slots.length := by
    by_contra outside
    simp [State.slotAt, placeAt, List.getElem?_eq_none (Nat.le_of_not_lt outside)] at h
  have count := occupied_set s.admission.slots k none
  have taken : placeAt s.admission.slots k = some x := h
  simp only [taken, inside, Option.isSome_some, Option.isSome_none, and_self, if_true, and_false, Bool.false_eq_true, if_false] at count
  simp only [State.commandsWaiting, State.setSlot, State.withAdmission_admission, ended]
  omega

/-- A refused grant is a slot's, and that slot is occupied (R26). -/
theorem State.refusedSlot_occupied (s : State) (r : Requester) (k : Nat) (sl : Slot) (h : s.refusedSlot r = some (k, sl)) :
    s.slotAt k = some sl := by
  unfold State.refusedSlot at h
  cases r with
  | slot j =>
    simp only at h
    split at h
    · rename_i x hx
      split at h
      · split at h
        · cases h; exact hx
        · cases h
      all_goals cases h
    · cases h
  | port | migration | ring | patrol => cases h

/-- The bound on the refused grants of one happening is never met: any two bounds above the commands waiting give one
outcome (log 16). -/
theorem arbitrateFrom_bound (n m : Nat) (s : State) (hn : s.commandsWaiting < n) (hm : s.commandsWaiting < m) :
    arbitrateFrom n s = arbitrateFrom m s := by
  induction n generalizing m s with
  | zero => omega
  | succ n ih =>
    obtain ⟨m, rfl⟩ : ∃ j, m = j + 1 := ⟨m - 1, by omega⟩
    unfold arbitrateFrom
    split
    · rfl
    · split
      · rfl
      · split
        · rename_i r _ _ k sl refused
          have fewer := State.endSlot_commandsWaiting (s.noteGrant r) k sl sl .lineProtected
            (State.refusedSlot_occupied s r k sl refused)
          have same : (s.noteGrant r).commandsWaiting = s.commandsWaiting := rfl
          exact ih m _ (by unfold State.endRefusedSlot; omega) (by unfold State.endRefusedSlot; omega)
        · rfl

/-- A refused grant ends its slot's command, and the choice is made again (R22, R26). -/
theorem State.arbitrate_refused (s : State) (r : Requester) (k : Nat) (sl : Slot) (free : s.arbiter.tenure = none)
    (chosen : chooseFrom s.arbiter.guard s.waiting = some r) (refused : s.refusedSlot r = some (k, sl)) :
    s.arbitrate = ((s.noteGrant r).endRefusedSlot k sl).arbitrate := by
  have fewer := State.endSlot_commandsWaiting (s.noteGrant r) k sl sl .lineProtected
    (State.refusedSlot_occupied s r k sl refused)
  have same : (s.noteGrant r).commandsWaiting = s.commandsWaiting := rfl
  have first : s.arbitrate = arbitrateFrom s.commandsWaiting ((s.noteGrant r).endRefusedSlot k sl) := by
    show arbitrateFrom (s.commandsWaiting + 1) s = _
    rw [arbitrateFrom]
    simp [free, chosen, refused]
  rw [first]
  exact arbitrateFrom_bound _ _ _ (by unfold State.endRefusedSlot; omega) (Nat.lt_succ_self _)

/-! ### The end of a happening -/

/-- ATTN stands at the level of its inputs when a happening ends (R126). -/
theorem State.conclude_attn (s : State) : s.conclude.attn = s.conclude.attnLevel := rfl

end Sys2Proof.Machine
end

