-- ==== Sys2Proof/Laws/Commands.lean ====
section
/-!
SUPPORT. What the shared operations behind the commands come to: a record presented with nothing ahead of it, a posted
register write that finds the buffer empty, ranges that meet, reads that decode GOOD, and the words a Line Write stores.
-/

namespace Sys2Proof.Machine

/-- A CTRL value whose action bit is set already is the value its own row writes. -/
theorem or_twoPow_of_getLsbD (v k : BitVec 32) (i : Nat) (hk : k = BitVec.twoPow 32 i) (h : v.getLsbD i = true) :
    v ||| k = v := by
  subst hk
  ext j hj
  simp only [BitVec.getElem_or, BitVec.getElem_twoPow]
  by_cases e : j = i
  · subst e
    simpa [BitVec.getLsbD_eq_getElem hj] using h
  · simp [e]

/-- A posted register write that finds the buffer empty is answered and takes effect in the same happening (R41). -/
theorem State.postRegister_of_empty (s : State) (target : PostedRegister) (v : BitVec 32) (h : s.port.buffer = []) :
    s.postRegister target v
      = ((s.withPort { s.port with answer := some ⟨.accepted, []⟩ }).deliver target v).conclude := by
  simp [State.postRegister, State.presentWrite, State.acceptEntry, State.respond, State.joinBuffer, State.setBuffer,
    State.deliverHeads, h, deliverFrom]

/-- A posted register write leaves the port alone when it takes effect (R41). -/
theorem State.deliver_port (s : State) (target : PostedRegister) (v : BitVec 32) : (s.deliver target v).port = s.port :=
  congrArg (fun x => x.port) (State.deliver_kept s target v)

/-- While the head is no register entry nothing is delivered (R41). -/
theorem State.deliverHeads_of_headIsMemory (s : State) (h : s.port.headIsMemory) : s.deliverHeads = s := by
  unfold State.deliverHeads
  unfold Port.headIsMemory at h
  split at h <;> simp_all [deliverFrom]

/-- The register entry at the head leaves and takes effect, and those behind it follow (R41). -/
theorem State.deliverHeads_register (s : State) (target : PostedRegister) (v : BitVec 32) (rest : List PostEntry)
    (h : s.port.buffer = .register target v :: rest) :
    s.deliverHeads = ((s.setBuffer rest).deliver target v).deliverHeads := by
  have left : ((s.setBuffer rest).deliver target v).port.buffer = rest := by rw [State.deliver_port]; rfl
  conv_rhs => rw [State.deliverHeads, left]
  simp only [State.deliverHeads, h, deliverFrom]

/-- Two ranges meet exactly when some number lies in both. -/
theorem rangesMeet_iff (a b : Nat × Nat) :
    rangesMeet a b = true ↔ ∃ x, (a.1 ≤ x ∧ x < a.1 + a.2) ∧ (b.1 ≤ x ∧ x < b.1 + b.2) := by
  simp only [rangesMeet, Bool.and_eq_true, decide_eq_true_eq]
  constructor
  · rintro ⟨⟨⟨h1, h2⟩, h3⟩, h4⟩
    exact ⟨max a.1 b.1, by omega⟩
  · rintro ⟨x, h⟩
    omega

/-- A record that passes R131's checks and may issue, with nothing ahead of it, issues in the same happening (R134, R135). -/
theorem State.presentRecord_issues (s : State) (tag : Tag) (c : Command) (admits : s.admits = true)
    (nothingAhead : s.admission.pendingList = []) (fields : c.fieldsOk s.straps.spareFrames = true)
    (addresses : c.addressesOk s.straps.hostFrames = true) (fresh : tag ∉ s.tagSet) (may : s.mayIssue c = true)
    (notAbort : ∀ t, c ≠ .abort t) : s.presentRecord tag c = .next (s.issueCommand tag c).conclude := by
  have issues : s.engine.state.issues = true := by
    simp only [State.admits, Bool.and_eq_true] at admits
    exact admits.1.1.1.2
  have judged : s.judge ⟨tag, c.kindCode, some c⟩ = .inr c := by simp [State.judge, fields, addresses, fresh]
  have admitted : s.enlist tag c = s.issueCommand tag c := by
    simp only [State.enlist, State.issueAll, nothingAhead, List.nil_append, State.withAdmission_admission, issueFrom]
    have may' : (s.withAdmission { s.admission with pendingList := [⟨tag, c⟩] }).mayIssue c = true := by
      cases c <;> first | rfl | exact may
    have same : ({ pendingList := [], slots := s.admission.slots, backlog := s.admission.backlog } : Admission)
        = s.admission := by rw [← nothingAhead]
    simp [issues, may', same, State.withAdmission_self]
  simp only [State.presentRecord, admits, if_true, State.takeRecord, judged]
  cases c <;> first | exact absurd rfl (notAbort _) | simp only [admitted]

/-- A record that passes R131's checks and is no ABORT joins the tail of the pending list, and the head is judged (R135). -/
theorem State.takeRecord_joins (s : State) (r : CommandRecord) (c : Command) (named : r.command = some c)
    (fields : c.fieldsOk s.straps.spareFrames = true) (addresses : c.addressesOk s.straps.hostFrames = true)
    (fresh : r.tag ∉ s.tagSet) (notAbort : ∀ t, c ≠ .abort t) :
    s.takeRecord r = (s.withAdmission { s.admission with
      pendingList := s.admission.pendingList ++ [⟨r.tag, c⟩] }).issueAll := by
  have judged : s.judge r = .inr c := by simp [State.judge, named, fields, addresses, fresh]
  simp only [State.takeRecord, judged]
  cases c <;> first | exact absurd rfl (notAbort _) | rfl

/-- Reads that all decode GOOD lose nothing. -/
theorem anyLost_goodReports (words : List DataWord) : anyLost (goodReports words) = false := by
  unfold anyLost goodReports
  rw [List.any_map, List.any_eq_false]
  rintro ⟨d, i⟩ _
  simp [DecodeClass.isLost]

/-- Reads that all decode GOOD deliver their words. -/
theorem recordWords_goodReports (words : List DataWord) : recordWords (goodReports words) = words := by
  simp only [recordWords, goodReports, List.filterMap_map]
  have pick : ((fun r : WordReport => r.decoded.map (·.2)) ∘ fun (x : DataWord × Nat) =>
      (match x with | (d, i) => (⟨i, some (DecodeClass.good, d), Written.unchanged⟩ : WordReport)))
        = fun x => some x.1 := by
    funext ⟨d, i⟩
    rfl
  rw [pick]
  simp [List.filterMap_eq_map']

/-- Reads that all decode GOOD hand nothing on. -/
theorem State.handWords_goodReports (s : State) (src : Source) (tag : Option Tag) (line : Nat) (words : List DataWord) :
    s.handWords src tag line (goodReports words) = s := by
  apply State.handWords_noDetection
  intro r hr
  simp only [goodReports, List.mem_map, Prod.exists] at hr
  obtain ⟨d, i, _, rfl⟩ := hr
  intro x hx
  cases hx
  rfl

/-- Giving a frame's entry a retire state twice is giving it the second. -/
theorem Tables.setRetire_setRetire (t : Tables) (frame : Nat) (a b : RetireState) :
    (t.setRetire frame a).setRetire frame b = t.setRetire frame b := by
  simp only [Tables.setRetire, List.map_map]
  congr 1
  apply List.map_congr_left
  intro p _
  cases p with
  | none => rfl
  | some e =>
    simp only [Function.comp, Option.map_some]
    by_cases h : e.frame = frame <;> simp [h]

/-- The words a Line Write stores: each settled word in the source line, and in the target line where there is one. -/
theorem mem_lineWriteEffect_writes (m : Memory) (source : Nat) (target : Option Nat) (ws : List WordWrite)
    (p : Nat × StoredWord) :
    p ∈ (lineWriteEffect m source target ws).writes ↔
      ∃ i, ∃ h : i < ws.length, ∃ v, settleWord (m.read (wordKey source i)) ws[i] = some v
        ∧ (p = (wordKey source i, v.1) ∨ ∃ t, target = some t ∧ p = (wordKey t i, v.1)) := by
  simp only [lineWriteEffect, settledWords, List.mem_flatMap, List.mem_filterMap, List.mem_zipIdx_iff_getElem?]
  constructor
  · rintro ⟨⟨i, a, b, c⟩, ⟨⟨w, j⟩, hj, hs⟩, hp⟩
    simp only at hj hs
    obtain ⟨hj1, rfl⟩ := List.getElem?_eq_some_iff.1 hj
    cases hv : settleWord (m.read (wordKey source j)) ws[j] with
    | none => simp [hv] at hs
    | some v =>
      obtain ⟨x, y, z⟩ := v
      simp only [hv, Option.map_some, Option.some.injEq, Prod.mk.injEq] at hs
      obtain ⟨rfl, rfl, rfl, rfl⟩ := hs
      refine ⟨_, hj1, _, hv, ?_⟩
      simp only [List.mem_cons, List.mem_map, Option.mem_toList] at hp
      rcases hp with rfl | ⟨t, ht, rfl⟩
      · exact .inl rfl
      · exact .inr ⟨t, ht, rfl⟩
  · rintro ⟨i, hi, ⟨a, b, c⟩, hs, hp⟩
    refine ⟨(i, a, b, c), ⟨(ws[i], i), by simp [hi], by simp [hs]⟩, ?_⟩
    simp only [List.mem_cons, List.mem_map, Option.mem_toList]
    rcases hp with rfl | ⟨t, ht, rfl⟩
    · exact .inl rfl
    · exact .inr ⟨t, ht, rfl⟩

end Sys2Proof.Machine
end

