-- ==== Sys2Proof/WellFormed.lean ====
section
/-!
DEFINITION. When a command's operands are what its row of the table says they are.
The meaning of a command does not depend on it: an ill-formed register write is still the write it spells (log 12).
-/

namespace Sys2Proof

/-- The offsets of the registers a write can change (spec 11.6). -/
def writableOffsets : List Nat := [0x00, 0x08, 0x0C, 0x10, 0x14, 0x1C]

/-- The operands of a command are those of its own row.
- A CTRL row carries its own action bit, and ENABLE_BITS carries none (spec 11.6, CTRL bits 0 to 2).
- FAULT_INFO_CLEAR carries the clear bit (bit 31).
- REGISTER_WRITE_OTHER names no register a write can change (R40), or FAULT_INFO with the clear bit clear (R176).
The fields of command records may hold anything: R131 judges them. -/
def Instr.WellFormed : Instr → Bool
  | .start v => v.getLsbD 0
  | .quiesce v => v.getLsbD 1
  | .engineReset v => v.getLsbD 2
  | .enableBits v => !v.getLsbD 0 && !v.getLsbD 1 && !v.getLsbD 2
  | .faultInfoClear v => v.getLsbD 31
  | .registerWriteOther offset v => !writableOffsets.contains offset || (offset == 0x1C && !v.getLsbD 31)
  | .deviceReset _ | .deviceResetRelease _ _ | .disturbance _ _ _ _ | .hostRead _ _ | .hostWrite _ _ _
  | .hostReadEnd | .drainEnd | .sqTail _ | .cqHead _ | .eqHead _ | .anchor _ | .anchorReadEnd | .fetchEnd
  | .ringPostEnd | .copyStepEnd | .slotTenureEnd | .patrolTenureEnd | .patrolExpiry | .scrub _ _ _ _
  | .verify _ _ _ | .fill _ _ _ _ | .copy _ _ _ _ | .retire _ _ | .install _ _ _ | .withdrawSpare _ _
  | .query _ _ | .clearSuspect _ _ | .setRegion _ _ _ _ _ _ | .setPatrol _ _ _ _ | .fence _ | .abort _ _ =>
    true

end Sys2Proof
end

