-- ==== Sys2Proof/Tests/Slice0.lean ====
section
/-!
SUPPORT. Small tests: the WellFormed smoke, single steps whose expected results are the spec's own worked examples or
tables, and for every statement that has hypotheses a state and operands that meet them.
-/

namespace Sys2Proof.Tests

open Sys2Proof.Machine

/-! ### Small states -/

/-- The state after a command, or the state itself where it stops. -/
def after (c : Instr) (s : State) : State :=
  match exec c s with
  | .next t => t
  | .fault _ | .refused _ => s

/-- Some commands, one after another. -/
def afterAll (cs : List Instr) (s : State) : State := cs.foldl (fun s c => after c s) s

/-- Released from reset with SIZE 0 and SPARE 1: 262,128 host frames and 16 FREE spares; the engine is OFF. -/
def quiet : State := after (.deviceResetRelease 0 1) State.reset

/-- Rings of 16 entries at 10000h, 20000h and 30000h. -/
def rings : Rings := ⟨⟨0x10000, 4⟩, ⟨0x20000, 4⟩, ⟨0x30000, 4⟩, 0, 0, 0, true, true⟩

/-- `quiet` with an engine state and rings. -/
def inEngine (st : EngineState) : State := quiet.withEngine { Engine.reset with state := st, rings := some rings }

/-- A running engine with nothing to do. -/
def running : State := inEngine .running

/-- A state with a tenure in progress. -/
def inTenure (s : State) (work : Work) (line : Nat) (reports : List WordReport) : State :=
  s.withArbiter { s.arbiter with tenure := some ⟨work, line, reports, false⟩ }

/-- A state with listed words. -/
def withWords (s : State) (ws : List (Nat × StoredWord)) : State := s.withMemory (s.memory.writeAll ws)

/-- Frame 5 ACTIVE on spare 0; frame 7 under re-retire from spare 1 to spare 2 with the cursor at 3, for the command 9. -/
def mapped : State := running.withTables { running.tables with
  remap := [⟨5, .active 0⟩, ⟨7, .migrating (some 1) 2 3⟩]
  spares := .assigned :: .assigned :: .target :: List.replicate 13 .free
  migration := some ⟨7, .command 9, .command, 2, some 1, 0, 0, 0, 0, .waiting⟩ }

/-- The live commands of `mapped`'s slots: a SCRUB that waits and one in tenure. -/
def slotted : State := running.withAdmission { running.admission with
  slots := [some ⟨1, .scrub 100 8 false, 0, 0, 0, 0, none, .waiting, none⟩,
    some ⟨2, .scrub 200 8 true, 7, 1, 0, 0, none, .inTenure, none⟩, none, none] }

/-! ### WellFormed refuses what is not its row's -/

theorem test_wellFormed_start : (Instr.start 0).WellFormed = false ∧ (Instr.start 0x701).WellFormed = true := by decide
theorem test_wellFormed_quiesce : (Instr.quiesce 1).WellFormed = false ∧ (Instr.quiesce 2).WellFormed = true := by decide
theorem test_wellFormed_engineReset :
    (Instr.engineReset 3).WellFormed = false ∧ (Instr.engineReset 4).WellFormed = true := by decide
theorem test_wellFormed_enableBits : (Instr.enableBits 1).WellFormed = false ∧ (Instr.enableBits 2).WellFormed = false
    ∧ (Instr.enableBits 4).WellFormed = false ∧ (Instr.enableBits 0x700).WellFormed = true := by decide
theorem test_wellFormed_faultInfoClear :
    (Instr.faultInfoClear 0x7FFFFFFF).WellFormed = false ∧ (Instr.faultInfoClear 0x80000000).WellFormed = true := by decide
theorem test_wellFormed_registerWriteOther : (Instr.registerWriteOther 0x08 0).WellFormed = false
    ∧ (Instr.registerWriteOther 0x1C 0x80000000).WellFormed = false ∧ (Instr.registerWriteOther 0x1C 1).WellFormed = true
    ∧ (Instr.registerWriteOther 0x04 0).WellFormed = true := by decide

/-! ### The spec's worked examples and tables -/

/-- The table gives bits to no row, so no word spells a command. -/
theorem test_decodeTableWord : decodeTableWord 16 0xFFFF = none := rfl

/-- 12.1: "After a device reset STAT reads 00020000h". -/
theorem test_deviceReset_stat : (after (.deviceReset false) running).readRegister 4 = 0x00020000#32 := by decide

/-- 00_scope.md: with SIZE 2 and SPARE 2, T is 1,048,576, S is 32 and U is 1,048,544. -/
theorem test_release_counts : (after (.deviceResetRelease 2 2) State.reset).straps.hostFrames = 1048544
    ∧ (after (.deviceResetRelease 2 2) State.reset).straps.spareFrames = 32 := by decide

/-- R1: codes 5, 6 and 7 select what 4 selects. -/
theorem test_release_topCode : (after (.deviceResetRelease 7 3) State.reset).straps.hostFrames = 4194240 := by decide

/-- 01, worked example: the line C005h before the write. -/
def damagedLine : List (Nat × StoredWord) :=
  [.clean 0x1111111111111111, .single 0x2222222222222222 13, .multi 9, .poison, .multi 8, .single 0x5555555555555555 67,
    .clean 0x6666666666666666, .clean 0x7777777777777777].zipIdx.map fun (w, i) => (wordKey 0xC005 i, w)

/-- 01, worked example: the write of AAh over the damaged line settles each word as the table says. -/
theorem test_hostWrite_damagedLine : (List.range 8).map (fun w => (after
      (.hostWrite 0xC005 0x000003FF030303FF (BitVec.replicate 64 0xAA#8)) (withWords quiet damagedLine)).memory.read
      (wordKey 0xC005 w))
    = [.clean 0xAAAAAAAAAAAAAAAA, .clean 0x222222222222AAAA, .poison, .poison, .clean 0xAAAAAAAAAAAAAAAA,
      .clean 0x555555555555AAAA, .clean 0x6666666666666666, .clean 0x7777777777777777] := by decide +kernel

/-- R5: a SINGLE word becomes MULTI with the stored bits as they stand, and no disturbance makes it CLEAN. -/
theorem test_disturbance_single : (after (.disturbance 3 1 2 (.toMulti 7)) (withWords quiet
    [(wordKey 193 2, .single 5 9)])).memory.read (wordKey 193 2) = .multi 7 := by decide

/-- 02, worked example: grant 8 goes to PORT, grant 9 past it to SLOT1, and the order after SLOT1 begins with SLOT2. -/
theorem test_guard : chooseFrom 7 [.port, .slot 1, .slot 2, .patrol] = some .port
    ∧ guardAfter 7 [.port, .slot 1, .slot 2, .patrol] .port = 8
    ∧ chooseFrom 8 [.port, .slot 1, .slot 2, .patrol] = some (.slot 1) ∧ slotOrder 1 = [2, 3, 0, 1] := by decide

/-- 03, worked example: a protected write is refused while the buffer takes the others. -/
theorem test_hostWrite_protected :
    (after (.hostWrite 0x4800 0xFF 0) (running.withTables { running.tables with
      regions := [none, none, none, some ⟨0x100000, 20, ⟨true, true, false, false⟩⟩, none, none, none, none] })).port.answer
      = some ⟨.lineProtected, []⟩ := by decide

/-- 03, worked example: the drain of M2001h brings the posted tail to Engine Control; M2000h' is the next drain. -/
theorem test_drainEnd_tail :
    let s := after .drainEnd (inTenure (running.withPort { running.port with
      buffer := [.memory 0x2001 0xFF 0, .register .sqTail 5, .memory 0x2000 0xFFFF 0] }) .drain 0x2001 [])
    s.engine.sqTail = 5#16 ∧ s.port.buffer = [.memory 0x2000 0xFFFF 0] ∧ s.arbiter.tenure.map (·.work) = some .drain := by
  decide +kernel

/-- 04, worked example: SIZE 2, SPARE 2, frame 2A17h migrating to spare 3 with the cursor at 3. -/
def crossing : State := (after (.deviceResetRelease 2 2) State.reset).withTables { Tables.reset with
  remap := [⟨0x2A17, .migrating none 3 3⟩] }

/-- 04, worked example: line A85C1h reaches its source and target line 3FFF8C1h; line A85C3h its source alone. -/
theorem test_routing_cursor : crossing.sourceLine 0xA85C1 = 0xA85C1 ∧ crossing.dualLine 0xA85C1 = some 0x3FFF8C1
    ∧ crossing.dualLine 0xA85C3 = none ∧ crossing.targetLine 0xA85C3 = some 0x3FFF8C3 := by decide

/-- 05, worked example: the last Copy Step of frame 0C40h with two requests behind it. -/
def lastStep : State :=
  let s := after (.deviceResetRelease 2 1) State.reset
  inTenure ((s.withEngine running.engine).withTables { s.tables with
    remap := [⟨0xC40, .migrating (some 6) 15 63⟩]
    spares := List.replicate 14 .assigned ++ [.failed, .target]
    retireQueue := [⟨0x1200, .auto, .threshold⟩, ⟨0x3300, .command 0x22, .command⟩]
    migration := some ⟨0xC40, .command 0x21, .command, 15, some 6, 1, 1, 1, 1, .inTenure⟩
    suspects := some ⟨0xC40, 16, 0, 0, 0, .migrating⟩ :: some ⟨0x1200, 20, 0, 0, 0, .queued⟩ :: List.replicate 30 none })
    .copyStep (0xC40 * 64 + 63) (goodReports (List.replicate 8 0))

/-- The state after it, but for the arbiter's grants. -/
def cutOver : State := lastStep.freeChannel.endCopyStep ⟨0xC40, .command 0x21, .command, 15, some 6, 1, 1, 1, 1, .inTenure⟩
  (0xC40 * 64 + 63) (goodReports (List.replicate 8 0))

/-- 05, worked example: cut-over, then both waiting requests are refused; the events and completions in their order. -/
theorem test_copyStepEnd_cutOver : cutOver.news.events.map (fun e => (e.kind, e.frame, e.spare))
      = [(.spareFailed, 0xC40, some 6), (.retireDone, 0xC40, some 15), (.retireRefused, 0x1200, none),
        (.retireRefused, 0x3300, none)]
    ∧ cutOver.admission.backlog.map (fun c => (c.tag, c.status, c.linesDone, c.result))
      = [(0x21, .dataErrors, 64, 0x10F), (0x22, .noSpare, 0, 0)] := by decide

/-- The same: the tables after it. -/
theorem test_copyStepEnd_tables : cutOver.tables.remap = [⟨0xC40, .active 15⟩]
    ∧ cutOver.tables.spares = List.replicate 6 .assigned ++ .failed :: List.replicate 7 .assigned ++ [.failed, .assigned]
    ∧ cutOver.tables.suspectOf 0xC40 = none ∧ (cutOver.tables.suspectOf 0x1200).map (·.retire) = some .refused
    ∧ cutOver.tables.retireQueue = [] ∧ cutOver.tables.migration = none := by decide

/-- 06, worked example: eviction from place 30 passes two pinned entries and takes place 0. -/
theorem test_eviction : evictionPlace (some ⟨0x500, 3, 0, 0, 0, .none⟩ :: List.replicate 29 none
    ++ [some ⟨0x1200, 20, 0, 0, 0, .queued⟩, some ⟨0xC40, 9, 0, 0, 0, .migrating⟩]) 32 30 = 0 := by decide

/-- 06, worked example: decay at a pass end. -/
theorem test_decay : [(⟨1, 16, 1, 0, 0, .none⟩ : SuspectEntry), ⟨2, 3, 0, 0, 0, .refused⟩, ⟨3, 1, 0, 0, 0, .none⟩,
      ⟨4, 1, 0, 0, 0, .queued⟩].map SuspectEntry.decayed
    = [some ⟨1, 8, 0, 0, 0, .none⟩, some ⟨2, 1, 0, 0, 0, .refused⟩, none, some ⟨4, 0, 0, 0, 0, .queued⟩] := by decide

/-- 06, worked example: SIZE 2, SPARE 2, region 2 alone with PATROL, the patrol enabled with this cursor. -/
def patrolled (cursor : Nat) : State :=
  ((after (.deviceResetRelease 2 2) State.reset).withEngine running.engine |>.withTables { Tables.reset with
    regions := [none, none, some ⟨0x40000000, 20, ⟨false, true, true, false⟩⟩, none, none, none, none, none] }).withPatrol
    ⟨true, 50, cursor, .idle, false⟩

/-- 06, worked example: the first expiry skips to line 1000000h and asks for a Repair Read of it. -/
theorem test_patrolExpiry_skip : (patrolled 0).nextPatrolLine = some 0x1000000
    ∧ (after .patrolExpiry (patrolled 0)).patrol = ⟨true, 50, 0x1000000, .inTenure 0x1000000 true, false⟩ := by decide

/-- 06, worked example: from line 1004000h the skip runs past the last line and the pass ends. -/
theorem test_patrolExpiry_pass : (after .patrolExpiry (patrolled 0x1004000)).patrol.cursor = 0
    ∧ ((patrolled 0x1004000).expire.news.events.map (·.kind)) = [.patrolPass] := by decide

/-- 07, worked example: CQ_HEAD 3 to 10 with producer 2 is legal; 10 to 5, and 16, are not. -/
theorem test_cqHead_legal : headLegal ⟨0x20000, 4⟩ 2 3 10 = true ∧ headLegal ⟨0x20000, 4⟩ 2 10 5 = false
    ∧ headLegal ⟨0x20000, 4⟩ 2 10 16 = false := by decide

/-- 07, worked example: an illegal CQ_HEAD halts the engine and keeps the register. -/
theorem test_cqHead_halts : (after (.cqHead 5) (running.withEngine { running.engine with cqHead := 10 })).engine.haltCause
    = .badCqHead ∧ (after (.cqHead 5) (running.withEngine { running.engine with cqHead := 10 })).engine.cqHead = 10 := by
  decide

/-- 08, worked example: the six records, the posts left out by a busy channel. -/
def headOfLine : State := afterAll [.scrub 1 0x1000 1024 false, .verify 2 0x1200 256, .query 3 0x48, .copy 1 0x8000 0x9000 16,
  .fence 5, .abort 6 2] (inTenure running .hostRead 0 [])

/-- 08, worked example: after fetch 5. -/
theorem test_abort_headOfLine : headOfLine.admission.pendingList.map (·.tag) = [5]
    ∧ headOfLine.admission.backlog.map (fun c => (c.tag, c.status)) = [(1, .duplicateTag), (2, .aborted), (6, .success),
      (3, .success)]
    ∧ headOfLine.tagSet.length = 5 := by decide

/-- 09, worked example: the COPY before step 9, under the region just set. -/
def stopping : State := (running.withAdmission { running.admission with slots := [some ⟨0x40, .copy 0x2000 0x6000 4, 2, 1, 1, 0,
    some (List.replicate 8 (.good, 0)), .waiting, none⟩, none, none, none] }).withTables { running.tables with
  regions := [none, none, none, none, some ⟨0x100000, 20, ⟨true, false, false, false⟩⟩, none, none, none] }

/-- 09, worked example: the write of 6002h is refused at its grant, the slot empties and its completion is posted. -/
theorem test_copy_protected : (stopping.refusedSlot (.slot 0)).map (fun (k, sl) =>
      (stopping.endRefusedSlot k sl).admission.backlog.map (fun c => (c.tag, c.status, c.linesDone, c.corrected,
        c.uncorrectable))) = some [(0x40, .lineProtected, 2, 1, 1)]
    ∧ stopping.arbitrate.admission.slots = [none, none, none, none]
    ∧ stopping.arbitrate.arbiter.tenure.map (·.work) = some .completionPost := by decide

/-- 10, worked example, step 1: what FAULT_INFO and FAULT_ADDR show. -/
theorem test_capture_patrol :
    let s := running.handCorrected .patrol none 0x1000005 2 17
    s.readRegister 0x1C = 0x00110261#32 ∧ s.readRegister 0x18 = 0x1000005#32 := by decide

/-- 10, worked example, step 2: the class A error of the same tenure replaces the class B one. -/
theorem test_hostReadEnd_capture : (after .hostReadEnd (inTenure (running.handCorrected .patrol none 0x1000005 2 17) .hostRead
    0x2A17C [⟨0, some (.corrected 3, 0), .unchanged⟩, ⟨6, some (.poisoned, 0), .unchanged⟩])).readRegister 0x1C
      = 0x4000060B#32 := by decide

/-- 11, worked example: the QUERY of frame 0C40h during its re-retire. -/
theorem test_query_report :
    let s := running.withTables { running.tables with
      remap := [⟨0xC40, .migrating (some 6) 15 41⟩]
      suspects := some ⟨0xC40, 16, 0, 0xC40 * 64 + 17, 5, .migrating⟩ :: List.replicate 31 none }
    (s.queryCompletion 0x70 0xC40).result = 0xA4F1AE#28 ∧ (s.queryCompletion 0x70 0xC40).poisoned = 337 := by decide

/-- 12, an ABORT racing a slot, case A: the SCRUB covered every line, but its status is ABORTED. -/
theorem test_abort_caseA :
    let s := running.withAdmission { running.admission with slots := [none, some ⟨0x50, .scrub 0x1000 8 false, 7, 0, 0, 0, none,
      .inTenure, none⟩, none, none] }
    let t := (after (.abort 0x51 0x50) (inTenure s (.slotStep 1) 0x1007 (goodReports (List.replicate 8 0))))
    t.liveCount = 2 ∧ ((after .slotTenureEnd t).tagSet, (t.freeChannel.takeSlotTenure ⟨.slotStep 1, 0x1007,
      goodReports (List.replicate 8 0), false⟩).admission.backlog.map (fun c => (c.tag, c.status, c.linesDone)))
      = ([0x51], [(0x50, .aborted, 8), (0x51, .success, 0)]) := by decide

/-- 12, event overflow: with the ring released, the post of E1 frees the place that the OVERFLOW record takes. -/
theorem test_eventPost_overflow :
    let e : EventRecord := { kind := .retireDone, source := .migration }
    let s := (running.withEngine { running.engine with rings := some { rings with eqProducer := 15 } }).withNews
      ⟨List.replicate 8 e, some ⟨3, .corrected, .patrol⟩, none⟩
    let t := after (.eqHead 15) s
    t.news.events.map (·.kind) = List.replicate 7 .retireDone ++ [.overflow] ∧ t.news.overflow = none
      ∧ t.engine.rings.map (fun r => (r.eqProducer, r.eqLap)) = some (0, false) := by decide

/-- 04, restoring a map: WITHDRAW_SPARE 5, INSTALL 0C40h on 6 and 2A17h on 3. -/
theorem test_install_restore :
    let s := afterAll [.withdrawSpare 1 5, .install 2 0xC40 6, .install 3 0x2A17 3, .install 4 0x2A17 7]
      (inTenure running .hostRead 0 [])
    s.admission.backlog.map (·.status) = [.success, .success, .success, .conflict]
      ∧ s.tables.spares[5]? = some .failed ∧ s.tables.lowestFreeSpare = some 0 := by decide

/-- R111, R112: START reads the anchor line; a POISONED word fails the start. -/
theorem test_anchorReadEnd_unreadable :
    let s := afterAll [.anchor 0x100, .start 0x701] (withWords quiet
      ((StoredWord.poison :: List.replicate 7 (.clean 0)).zipIdx.map fun (w, i) => (wordKey 0x100 i, w)))
    s.engine.state = .starting ∧ s.arbiter.tenure.map (·.work) = some .anchorRead
      ∧ (after .anchorReadEnd s).engine.startError = .anchorUnreadable ∧ (after .anchorReadEnd s).engine.state = .off := by
  decide

/-! ### States and operands that meet the statements' hypotheses -/

theorem witness_StepRunsFrontCommand : State.reset.pending = [] := rfl

/-- The last frame that is installed, and any other command. -/
theorem witness_CommandsGoOnAndKeepStraps :
    (∀ frame line word change, Instr.disturbance 262143 63 7 (.toSingle 71) = .disturbance frame line word change →
      frame.toNat < quiet.installedFrames)
    ∧ (∀ frame line word change, Instr.hostReadEnd = .disturbance frame line word change →
      frame.toNat < quiet.installedFrames)
    ∧ (∀ p, Instr.hostReadEnd ≠ .deviceReset p) ∧ ∀ a b, Instr.hostReadEnd ≠ .deviceResetRelease a b := by
  refine ⟨fun frame _ _ _ h => ?_, by simp, by simp, by simp⟩
  injection h with h
  subst h
  decide

/-- A port that holds a read. -/
def holding (s : State) : State := s.withPort { s.port with held := .readHeld 3 0xFF }

theorem witness_HostRequestsNotTaken : State.reset.resetAsserted = true ∧ (holding quiet).port.held ≠ .idle
    ∧ quiet.resetAsserted = false ∧ State.reset.port.held = .idle := by decide

theorem witness_DeviceResetValues : State.reset.resetAsserted = true ∧ quiet.resetAsserted = false := by decide

/-- The last frame that exists and the first that does not, after the release and before it. -/
theorem witness_DisturbanceChangesOneWord : (262143#22).toNat < quiet.installedFrames
    ∧ quiet.installedFrames ≤ (262144#22).toNat ∧ (4194303#22).toNat < State.reset.installedFrames := by decide

/-- A word with no lane, a whole word, a marked one and merges over each condition. -/
def lanesOfEachKind : List WordWrite :=
  [⟨0, 1, false⟩, ⟨0xFF, 2, false⟩, ⟨0xFF, 3, true⟩, ⟨0x01, 4, false⟩, ⟨0x80, 5, false⟩, ⟨0x7F, 6, false⟩, ⟨0xFE, 7, false⟩,
    ⟨0x0F, 8, true⟩]

theorem witness_LineWriteSettlesEachWord : lanesOfEachKind.length = 8 ∧ (some 2 : Option Nat) ≠ some 1
    ∧ (none : Option Nat) ≠ some 1 := by decide

theorem witness_CopyStepWritesTheTarget : (2 : Nat) ≠ 1 := by decide

theorem witness_StepsKeepMemoryCanonical : let s := (withWords quiet damagedLine).withPending [.disturbance 3 1 2 (.toMulti 7)]
    s.MemoryCanonical ∧ ∃ t, step s = .next t := ⟨by decide, _, rfl⟩

/-- The laws of R51 hold of `mapped`. -/
theorem mapped_consistent : mapped.tables.Consistent where
  frames := by decide
  named := by decide
  assigned := by
    intro k
    rcases k with _ | _ | _ | k <;>
      simp [mapped, RemapState.current?, State.withTables, List.getElem?_replicate, -List.reduceReplicate]
  target := by
    intro k
    rcases k with _ | _ | _ | k <;>
      simp [mapped, RemapState.target?, State.withTables, List.getElem?_replicate, -List.reduceReplicate]
  unit := by
    intro m h
    cases h
    exact ⟨3, by decide, by decide⟩
  entry := by
    intro e he hm
    have : e = ⟨5, .active 0⟩ ∨ e = ⟨7, .migrating (some 1) 2 3⟩ := by simpa [mapped, State.withTables] using he
    rcases this with rfl | rfl
    · exact absurd hm (by decide)
    · exact ⟨_, rfl, rfl⟩

theorem mapped_inRange : mapped.RemapInRange := ⟨by decide, by decide⟩

/-- The last host line, a line of the ACTIVE frame, and lines of the migrating one below and at the cursor. -/
theorem witness_RoutingReachesNoIdleSpare : mapped.tables.Consistent ∧ mapped.RemapInRange
    ∧ (∀ line ∈ [16776191, 5 * 64, 7 * 64 + 2, 7 * 64 + 3], line < mapped.straps.hostLines)
    ∧ (∀ e ∈ mapped.tables.remap, e.frame ≠ 16776191 / 64) ∧ ⟨5 * 64 / 64, .active 0⟩ ∈ mapped.tables.remap
    ∧ ⟨(7 * 64 + 2) / 64, .migrating (some 1) 2 3⟩ ∈ mapped.tables.remap :=
  ⟨mapped_consistent, mapped_inRange, by decide, by decide, by decide, by decide⟩

/-- R52, R54: U is 262,128; below the cursor of 3 a write reaches spare 2 as well, at the cursor and elsewhere it does not. -/
theorem test_routing : mapped.sourceLine (5 * 64 + 63) = 262128 * 64 + 63 ∧ mapped.dualLine (5 * 64) = none
    ∧ mapped.sourceLine (7 * 64 + 2) = 262129 * 64 + 2 ∧ mapped.dualLine (7 * 64 + 2) = some (262130 * 64 + 2)
    ∧ mapped.dualLine (7 * 64 + 3) = none ∧ mapped.sourceLine (8 * 64) = 8 * 64 := by decide

/-- Two lines of the migrating frame, either side of the cursor, and whole-line writes. -/
theorem witness_TenuresTouchOneHostLine : mapped.tables.Consistent ∧ mapped.RemapInRange
    ∧ 7 * 64 + 2 < mapped.straps.hostLines ∧ 7 * 64 + 3 < mapped.straps.hostLines ∧ 7 * 64 + 2 ≠ 7 * 64 + 3
    ∧ lanesOfEachKind.length = 8 := ⟨mapped_consistent, mapped_inRange, by decide, by decide, by decide, by decide⟩

/-- Frame 0 and spare 0, both CLEAN and 0 throughout, with frame 0 migrating to spare 0. -/
def copied (cursor : Nat) : State :=
  (withWords running ((List.range 512).flatMap fun k => [(k, .clean 0), (262128 * 512 + k, .clean 0)])).withTables
    { running.tables with
      remap := [⟨0, .migrating none 0 cursor⟩]
      spares := .target :: List.replicate 15 .free
      migration := some ⟨0, .auto, .threshold, 0, none, 0, 0, 0, 0, .waiting⟩ }

theorem copied_read (cursor k : Nat) (h : k < 512) : (copied cursor).memory.read k = .clean 0
    ∧ (copied cursor).memory.read (262128 * 512 + k) = .clean 0 := by
  constructor <;> apply Memory.read_writeAll_of_mem
  · intro c hc _
    obtain ⟨j, -, hc⟩ := List.mem_flatMap.1 hc
    rcases List.mem_pair.1 hc with rfl | rfl <;> rfl
  · exact ⟨(k, .clean 0), List.mem_flatMap.2 ⟨k, by simpa using h, by simp⟩, rfl⟩
  · intro c hc _
    obtain ⟨j, -, hc⟩ := List.mem_flatMap.1 hc
    rcases List.mem_pair.1 hc with rfl | rfl <;> rfl
  · exact ⟨(262128 * 512 + k, .clean 0), List.mem_flatMap.2 ⟨k, by simpa using h, by simp⟩, rfl⟩

theorem copied_consistent (cursor : Nat) (h : cursor < 64) : (copied cursor).tables.Consistent where
  frames := by simp [copied, State.withTables]
  named := by simp [copied, State.withTables, RemapState.spares]
  assigned := by
    intro k
    rcases k with _ | k <;> simp [copied, RemapState.current?, State.withTables, List.getElem?_replicate, -List.reduceReplicate]
  target := by
    intro k
    rcases k with _ | k <;> simp [copied, RemapState.target?, State.withTables, List.getElem?_replicate, -List.reduceReplicate]
  unit := by
    intro m hm
    cases hm
    exact ⟨cursor, h, by simp [copied, State.withTables]⟩
  entry := by
    intro e he _
    have : e = ⟨0, .migrating none 0 cursor⟩ := by simpa [copied, State.withTables] using he
    subst this
    exact ⟨_, rfl, rfl⟩

/-- Below the last cursor and at it. -/
theorem witness_MigrationLosesNoWrite : ∀ cursor ∈ [62, 63], (copied cursor).tables.Consistent
    ∧ (copied cursor).RemapInRange ∧ (copied cursor).MirrorsBelowCursor ∧ (copied cursor).tables.migration.isSome = true
    ∧ (copied cursor).tables.entryOf 0 = some ⟨0, .migrating none 0 cursor⟩ := by
  intro cursor hc
  have small : cursor < 64 := by
    simp only [List.mem_cons, List.not_mem_nil, or_false] at hc
    omega
  refine ⟨copied_consistent cursor small, ⟨?_, rfl⟩, ?_, rfl, rfl⟩
  · intro e he
    have : e = ⟨0, .migrating none 0 cursor⟩ := by simpa [copied, State.withTables] using he
    subst this
    exact (by decide : 0 < running.straps.hostFrames)
  · intro frame current target m hm l _ hl w hw
    have : frame = 0 ∧ current = none ∧ target = 0 ∧ m = cursor := by simpa [copied, State.withTables] using hm
    obtain ⟨rfl, rfl, rfl, rfl⟩ := this
    have here : (copied m).sourceLine (0 * 64 + l) = l := by
      have : (0 * 64 + l) / 64 = 0 := by omega
      simp only [State.sourceLine, State.backing, this]
      show 0 * 64 + (0 * 64 + l) % 64 = l
      omega
    rw [here, show wordKey ((copied m).spareFrame 0 * 64 + l) w = 262128 * 512 + (l * 8 + w) by
      show ((262128 + 0) * 64 + l) * 8 + w = _
      omega, show wordKey l w = l * 8 + w from rfl]
    rw [(copied_read m (l * 8 + w) (by omega)).1, (copied_read m (l * 8 + w) (by omega)).2]
    rfl

/-- A posted write. -/
def posted : PostEntry := .memory 0x1000 1 0

/-- A running part with these entries in the buffer. -/
def buffered (b : List PostEntry) : State := running.withPort { running.port with buffer := b }

/-- PORT and SLOT0 wait, with this guard count. -/
def contended (guard : Nat) : State :=
  (slotted.withPort { slotted.port with buffer := [posted] }).withArbiter ⟨none, 3, guard⟩

/-- The guard one below and at 8 with another request, PORT alone at 8, and a slot alone. -/
theorem witness_GrantsFollowOrderAndGuard : (inTenure running .drain 0 []).arbiter.tenure.isSome = true
    ∧ running.arbiter.tenure = none ∧ running.waiting = []
    ∧ (contended 7).waiting = [.port, .slot 0] ∧ (contended 8).waiting = [.port, .slot 0]
    ∧ (contended 7).arbiter.tenure = none ∧ (contended 7).arbiter.guard < 8 ∧ 8 ≤ (contended 8).arbiter.guard
    ∧ (contended 8).slotAt 0 = some ⟨1, .scrub 100 8 false, 0, 0, 0, 0, none, .waiting, none⟩
    ∧ ((buffered [posted]).withArbiter ⟨none, 3, 8⟩).waiting = [.port]
    ∧ slotted.waiting = [.slot 0] := by decide

/-- Every requester has a request, and SLOT1 was the last slot granted. -/
def crowded : State :=
  let s := (mapped.withPort { mapped.port with buffer := [posted] }).withArbiter ⟨none, 1, 0⟩
  (((s.withAdmission { s.admission with
    slots := (List.range 4).map fun k => some ⟨BitVec.ofNat 16 k, .verify (k * 8) 8, 0, 0, 0, 0, none, .waiting, none⟩
    }).withEngine { s.engine with sqTail := 1 })).withPatrol { s.patrol with phase := .waiting 3 true }

/-- R23: the order of a choice, the slots from SLOT2 on. -/
theorem test_grant_order :
    crowded.waiting = [.port, .migration, .ring, .slot 2, .slot 3, .slot 0, .slot 1, .patrol] := by decide

/-- A running engine whose fetch is the first work ready: 15 commands wait, and neither ring has room for what waits. -/
def fetching : State :=
  let s := running.withEngine { running.engine with
    sqTail := 1, rings := some { rings with cqProducer := 15, eqProducer := 15 } }
  (s.withAdmission { s.admission with
    pendingList := (List.range 15).map fun i => ⟨BitVec.ofNat 16 (100 + i), .fence⟩
    backlog := [abortCompletion 3 .success] }).withNews ⟨[{ kind := .patrolPass, source := .patrol }], none, none⟩

/-- PORT: a read held before a buffer with one free place, before a full one, and blocked by its own line. -/
theorem witness_PortGrantReadsOrDrains : (holding (buffered (List.replicate 7 posted))).port.held = .readHeld 3 0xFF
    ∧ (∀ m d, PostEntry.memory 3 m d ∉ (holding (buffered (List.replicate 7 posted))).port.buffer)
    ∧ (holding (buffered (List.replicate 7 posted))).port.buffer.length < 8
    ∧ (holding (buffered (List.replicate 8 posted))).port.buffer = .memory 0x1000 1 0 :: List.replicate 7 posted
    ∧ 8 ≤ (holding (buffered (List.replicate 8 posted))).port.buffer.length
    ∧ (∃ m d, PostEntry.memory 3 m d ∈ (holding (buffered [.memory 3 1 0])).port.buffer)
    ∧ (buffered [posted]).port.held = .idle := by
  refine ⟨rfl, ?_, by decide, rfl, by decide, ⟨1, 0, .head _⟩, rfl⟩
  intro m d h
  have h : PostEntry.memory 3 m d ∈ List.replicate 7 posted := h
  have := List.eq_of_mem_replicate h
  simp [posted] at this

/-- R2: line byte 9 is lane 1 of word 1, and word 7 holds the line's last 8 bytes. -/
theorem test_hostWrite_lanes : (hostWordWrites 0x200 (0xAB00 <<< 64))[1]? = some ⟨0x02, 0xAB00, false⟩
    ∧ (hostWordWrites (0xFF <<< 56) (0xCD <<< 448))[7]? = some ⟨0xFF, 0xCD, false⟩ := by decide +kernel

/-- R6's table: a SINGLE word's position is reported, and a POISON word delivers zero. -/
theorem test_decode_table : decodeWord (.single 5 71) = (.corrected 71, 5) ∧ decodeWord .poison = (.poisoned, 0) := by
  decide

/-- The other grants: a Copy Step, the anchor read of the last line, a fetch as the list's last place allows, a slot that
waits, COPY before its source read and before its write, and a patrol read. -/
theorem witness_PortGrantReadsOrDrains_others :
    (mapped.tables.migration.isSome = true ∧ mapped.tables.entryOf 7 = some ⟨7, .migrating (some 1) 2 3⟩)
    ∧ (let s := quiet.withEngine { Engine.reset with state := .starting, anchorRequest := some 16776191 }
      s.engine.state = .starting ∧ s.engine.anchorRequest = some 16776191)
    ∧ (fetching.engine.state = .running
      ∧ fetching.engine.rings = some { rings with cqProducer := 15, eqProducer := 15 }
      ∧ 2 ^ 4 - 1 ≤ ringDistance (2 ^ 4) 15 fetching.engine.cqHead.toNat
      ∧ 2 ^ 4 - 1 ≤ ringDistance (2 ^ 4) 15 fetching.engine.eqHead.toNat ∧ 0 ≠ fetching.engine.sqTail.toNat
      ∧ fetching.admission.pendingList.length < 16 ∧ fetching.liveCount < 32 ∧ fetching.fetchInTenure = false)
    ∧ slotted.slotAt 0 = some ⟨1, .scrub 100 8 false, 0, 0, 0, 0, none, .waiting, none⟩
    ∧ (stopping.slotAt 0).map (fun sl => (sl.command, sl.heldLine.isSome)) = some (.copy 0x2000 0x6000 4, true)
    ∧ ((patrolled 3).withPatrol { (patrolled 3).patrol with phase := .waiting 3 true }).patrol.phase = .waiting 3 true := by
  decide

theorem witness_NoRequestWaitsOnAFreeChannel : let s := running.withPending [.hostRead 3 1]
    s.ChannelUsed ∧ ∃ t, step s = .next t := ⟨by decide, _, rfl⟩

theorem witness_ProtectedSlotWriteIsRefused : stopping.arbiter.tenure = none
    ∧ stopping.waiting = [.slot 0]
    ∧ (∃ sl held, stopping.slotAt 0 = some sl ∧ sl.command = .copy 0x2000 0x6000 4 ∧ sl.heldLine = some held
      ∧ 0x6002 = 0x6000 + sl.progress ∧ sl.abortedBy = none)
    ∧ (stopping.tables.attributesOfLine 0x6002).writeProtect = true ∧ stopping.admission.pendingList = [] :=
  ⟨by decide, by decide, ⟨_, _, rfl, rfl, rfl, rfl, rfl⟩, by decide, by decide⟩

/-- A FILL's write, granted past PORT at a guard count of 8. -/
theorem witness_ProtectedSlotWriteIsRefused_guard :
    let s := (stopping.withAdmission { stopping.admission with
      slots := [some ⟨0x40, .fill 0x6000 4 7, 2, 0, 0, 0, none, .waiting, none⟩, none, none, none] }).withPort
        { stopping.port with buffer := [posted] }
    let t := s.withArbiter ⟨none, 3, 8⟩
    t.arbiter.tenure = none ∧ 8 ≤ t.arbiter.guard ∧ t.waiting = [.port, .slot 0]
    ∧ (t.slotAt 0).map (fun sl => (sl.command, sl.progress)) = some (.fill 0x6000 4 7, 2)
    ∧ (t.tables.attributesOfLine 0x6002).writeProtect = true := by decide

/-- The last host line and the first beyond host memory. -/
theorem witness_HostReadIsAnsweredOrHeld : running.hostTakes = true
    ∧ (16776191#28).toNat < running.straps.hostFrames * 64 ∧ running.straps.hostFrames * 64 ≤ (16776192#28).toNat
    ∧ (1#8) ≠ 0#8 := by decide

/-- WRITE_PROTECT by the default attributes. -/
def protectedAll (s : State) : State := s.withTables { s.tables with defaults := ⟨true, false, false, false⟩ }

/-- Lines as above, and a buffer with one free place and with none. -/
theorem witness_HostWriteIsJudgedOnce : (buffered (List.replicate 7 posted)).hostTakes = true
    ∧ (buffered (List.replicate 8 posted)).hostTakes = true
    ∧ (16776191#28).toNat < running.straps.hostFrames * 64 ∧ running.straps.hostFrames * 64 ≤ (16776192#28).toNat
    ∧ 8 ≤ (buffered (List.replicate 8 posted)).port.buffer.length
    ∧ (buffered (List.replicate 7 posted)).port.buffer.length < 8
    ∧ (buffered (List.replicate 7 posted)).port.headIsMemory ∧ running.port.headIsMemory
    ∧ ((protectedAll running).tables.attributesOfLine 16776191).writeProtect = true
    ∧ (running.tables.attributesOfLine 16776191).writeProtect = false :=
  ⟨by decide, by decide, by decide, by decide, by decide, by decide, trivial, trivial, by decide, by decide⟩

theorem witness_HostReadEndAnswers :
    (inTenure running .hostRead 3 [⟨0, some (.poisoned, 0), .unchanged⟩]).resetAsserted = false
    ∧ (inTenure running .hostRead 3 [⟨0, some (.poisoned, 0), .unchanged⟩]).arbiter.tenure
      = some ⟨.hostRead, 3, [⟨0, some (.poisoned, 0), .unchanged⟩], false⟩ := by decide

/-- The drain of the last entry, and one with a posted tail, another write and a held one behind it. -/
def draining (held : HeldRequest) (behind : List PostEntry) (reports : List WordReport) : State :=
  inTenure (running.withPort ⟨held, posted :: behind, none⟩) .drain 0x1000 reports

/-- An entry with nothing behind it, a memory write held or a register write held; a protected line held; and a posted tail
with a write held behind it, at the largest tail. One report of a merge that failed, one of a word that was GOOD. -/
theorem witness_DrainEndFreesTheHeadEntry :
    (draining .idle [] [⟨0, some (.poisoned, 0), .poison⟩]).resetAsserted = false
    ∧ (draining .idle [] []).port.held = .idle ∧ (draining (.writeHeld posted) [posted] []).port.buffer = posted :: [posted]
    ∧ (draining (.writeHeld posted) [posted] []).port.held = .writeHeld (.memory 0x1000 1 0)
    ∧ (draining (.writeHeld (.register .ctrl 2)) [posted] []).port.held = .writeHeld (.register .ctrl 2)
    ∧ ((protectedAll (draining (.writeHeld posted) [posted] [])).tables.attributesOfLine 0x1000).writeProtect = true
    ∧ (draining (.writeHeld posted) [.register .sqTail 15, posted] []).port.buffer
      = posted :: .register .sqTail 15 :: [posted]
    ∧ (running.tables.attributesOfLine 0x1000).writeProtect = false ∧ running.engine.state.posts = true
    ∧ running.engine.rings = some rings ∧ ((15#32).extractLsb' 0 16).toNat < 2 ^ rings.sq.exponent
    ∧ (∀ r v l, [posted] ≠ .register r v :: l) ∧ (∀ r v l, ([] : List PostEntry) ≠ .register r v :: l)
    ∧ ∀ r ∈ ([⟨0, some (.good, 0), .clean⟩] : List WordReport), ∀ d, r.decoded = some d → d.1 = .good := by
  refine ⟨rfl, rfl, rfl, rfl, rfl, by decide, rfl, by decide, by decide, rfl, by decide, by simp [posted], by simp, ?_⟩
  intro r hr d hd
  cases List.mem_singleton.1 hr
  cases hd
  rfl

/-- R37, R173: a merge whose old word was UNCORRECTABLE is reported, captured and counted; one that was POISONED is reported
and not counted. -/
theorem test_drainEnd_mergeFailed :
    let s := after .drainEnd (draining .idle [] [⟨2, some (.uncorrectable, 0), .poison⟩, ⟨5, some (.poisoned, 0), .poison⟩])
    (s.tables.suspectOf 64).map (fun e => (e.uncorrectable, e.lastWord)) = some (1, 2)
      ∧ s.news.capture = some ⟨.mergeFailed, .hostWrite, 0x1000, 2, true⟩ := by decide

/-- Registers behind a memory entry; the largest tail and the first beyond it, stored in OFF; each CTRL action in a state that
takes it and in one that does not; and each held write before an emptied buffer and before one that holds an entry. -/
theorem witness_DrainEndFreesTheHeadEntry_delivered :
    (buffered [posted]).port.headIsMemory ∧ (buffered []).port.headIsMemory
    ∧ (buffered [.register .sqTail 3, .register .ctrl 2, posted]).port.buffer
      = .register .sqTail 3 :: [.register .ctrl 2, posted]
    ∧ (15#32).toNat % 2 ^ 16 < 2 ^ rings.sq.exponent ∧ 2 ^ rings.sq.exponent ≤ (16#32).toNat % 2 ^ 16
    ∧ running.engine.rings = some rings ∧ (inEngine .off).engine.state.posts = false
    ∧ (inEngine .off).engine.anchor.toNat < quiet.straps.hostFrames * 64
    ∧ quiet.straps.hostFrames * 64 ≤ ((inEngine .off).engine.anchor - 1).toNat
    ∧ (4#32).getLsbD 2 = true ∧ (3#32).getLsbD 0 = true ∧ (3#32).getLsbD 1 = true ∧ (3#32).getLsbD 2 = false
    ∧ (∀ e, running.port.held ≠ .writeHeld e)
    ∧ (∀ b ∈ [[], [posted]], (draining (.writeHeld posted) b []).port.held = .writeHeld (.memory 0x1000 1 0)
      ∧ (draining (.writeHeld (.register .ctrl 4)) b []).port.held = .writeHeld (.register .ctrl 4))
    ∧ (running.tables.attributesOfLine 0x1000).writeProtect = false
    ∧ ((protectedAll running).tables.attributesOfLine 0x1000).writeProtect = true := by
  refine ⟨trivial, trivial, rfl, by decide, by decide, rfl, rfl, by decide, by decide, by decide, by decide, by decide,
    by decide, (fun _ h => by cases h), fun _ _ => ⟨rfl, rfl⟩, by decide, by decide⟩

/-- R41: several registers behind the drain take effect in their order, up to the next memory entry; a tail of 16 halts; a
held tail takes effect in the buffer it finds empty; a START behind the drain acts in OFF. -/
theorem test_drainEnd_registers :
    (let s := after .drainEnd (draining .idle [.register .sqTail 3, .register .ctrl 0x100, posted] [])
     s.engine.sqTail = 3 ∧ s.engine.enables.comp = true ∧ s.port.buffer = [posted])
    ∧ (after .drainEnd (draining .idle [.register .sqTail 16] [])).engine.haltCause = .badSqTail
    ∧ (let s := after .drainEnd (draining (.writeHeld (.register .sqTail 5)) [] [])
      s.engine.sqTail = 5 ∧ s.port = ⟨.idle, [], some ⟨.accepted, []⟩⟩)
    ∧ (after .drainEnd ((draining .idle [.register .ctrl 1] []).withEngine Engine.reset)).engine.state = .starting := by
  decide +kernel

/-- Each of the five writes, before a buffer with one free place and before a full one. -/
theorem witness_PostedRegisterWritesWait : (buffered (List.replicate 7 posted)).hostTakes = true
    ∧ (buffered (List.replicate 7 posted)).port.buffer = posted :: List.replicate 6 posted
    ∧ (buffered (List.replicate 7 posted)).port.buffer.length < 8
    ∧ (buffered (List.replicate 8 posted)).hostTakes = true ∧ 8 ≤ (buffered (List.replicate 8 posted)).port.buffer.length
    ∧ (1#32).getLsbD 0 = true ∧ (2#32).getLsbD 1 = true ∧ (4#32).getLsbD 2 = true :=
  ⟨by decide, rfl, by decide, by decide, by decide, by decide, by decide, by decide⟩

/-- The engine states that take START and QUIESCE and those that do not, and the last line the anchor may name. -/
theorem witness_CtrlActsByEngineState :
    (∀ st ∈ [EngineState.off, .starting, .running, .quiescing, .quiesced, .halted],
      (inEngine st).hostTakes = true ∧ (inEngine st).port.buffer = [] ∧ (inEngine st).engine.state = st)
    ∧ (0x700#32).getLsbD 0 = false ∧ (0x700#32).getLsbD 1 = false ∧ (0x700#32).getLsbD 2 = false
    ∧ (1#32).getLsbD 0 = true ∧ (1#32).getLsbD 1 = false ∧ (1#32).getLsbD 2 = false
    ∧ (2#32).getLsbD 0 = false ∧ (2#32).getLsbD 1 = true ∧ (2#32).getLsbD 2 = false
    ∧ (16776191#28).toNat < running.straps.hostFrames * 64 ∧ running.straps.hostFrames * 64 ≤ (16776192#28).toNat := by
  decide

theorem witness_EngineResetEffect : (inTenure mapped .copyStep 451 []).hostTakes = true
    ∧ (inTenure mapped .copyStep 451 []).port.buffer = [] ∧ (7#32).getLsbD 2 = true ∧ mapped.tables.Consistent :=
  ⟨by decide, by decide, by decide, mapped_consistent⟩

/-- The largest tail and the first beyond; the head at the producer, one past it, and the first beyond the ring. -/
theorem witness_IndexWritesAreJudgedAgainstTheRings : running.hostTakes = true ∧ running.port.buffer = []
    ∧ running.engine.state.posts = true ∧ running.engine.rings = some rings ∧ (inEngine .halted).engine.state.posts = false
    ∧ (15#32).toNat % 2 ^ 16 < 2 ^ rings.sq.exponent ∧ 2 ^ rings.sq.exponent ≤ (16#32).toNat % 2 ^ 16
    ∧ (((0 : Int) - 0) % 16 ≤ ((0 : Int) - 0) % 16) ∧ ¬(((1 : Int) - 0) % 16 ≤ ((0 : Int) - 0) % 16) ∧ ¬(16 : Nat) < 2 ^ 4 := by
  decide

theorem witness_HaltHoldsSlotsAndPatrol : slotted.engine.state.posts = true
    ∧ (inEngine .quiesced).engine.state.posts = true ∧ (inEngine .halted).engine.state.posts = false
    ∧ (inEngine .starting).engine.state.posts = false := by decide

theorem witness_UnpostedRegisterWrites : running.hostTakes = true ∧ (0x80000000#32).getLsbD 31 = true
    ∧ (0x7FFFFFFF#32).getLsbD 31 = false ∧ (0x04 : Nat) ∉ [0x00, 0x08, 0x0C, 0x10, 0x14, 0x1C]
    ∧ (0x20 : Nat) ∉ [0x00, 0x08, 0x0C, 0x10, 0x14, 0x1C] := by decide

/-- An offset that names no register; Fault Capture empty, and holding the last line's last word and bit. -/
theorem witness_RegisterReadsShowNamedFieldsOnly :
    (0x20 : Nat) ∉ [0x00, 0x04, 0x08, 0x0C, 0x10, 0x14, 0x18, 0x1C] ∧ running.news.capture = none
    ∧ (running.present (.corrected 71) .migration (2 ^ 28 - 1) 7).news.capture
      = some ⟨.corrected 71, .migration, 2 ^ 28 - 1, 7, false⟩ := by decide

/-- A state whose ATTN stands, for a completion that waits. -/
def attending : State := (running.withAttn true).withEngine { running.engine with
  enables := ⟨true, false, false⟩, rings := some { rings with cqProducer := 1 } }

theorem witness_StepsKeepAttnLevel : (attending.attn = true ↔
      (∃ r, attending.engine.rings = some r ∧ attending.engine.enables.comp = true ∧ r.cqProducer ≠ attending.engine.cqHead.toNat)
      ∨ (∃ r, attending.engine.rings = some r ∧ attending.engine.enables.event = true
          ∧ r.eqProducer ≠ attending.engine.eqHead.toNat)
      ∨ (attending.engine.enables.halt = true ∧ attending.engine.state = .halted))
    ∧ ∃ t, step (attending.withPending [.cqHead 1]) = .next t :=
  ⟨⟨fun _ => .inl ⟨_, rfl, rfl, by decide⟩, fun _ => rfl⟩, _, rfl⟩

/-! ### The anchor -/

/-- An anchor with these exponents and threshold. -/
def anchorWith (sq cq eq threshold : Nat) : AnchorRecord :=
  ⟨1, true, threshold, ⟨false, true, false, false⟩, ⟨0x10000, sq⟩, ⟨0x20000, cq⟩, ⟨0x30000, eq⟩⟩

/-- R113's table at the ends of each range, and rings that meet or leave host memory. -/
theorem test_anchor_validate : (anchorWith 4 4 4 1).validate 262128 = .none ∧ (anchorWith 10 12 10 255).validate 262128 = .none
    ∧ { anchorWith 4 4 4 1 with version := 2 }.validate 262128 = .anchorVersion
    ∧ (anchorWith 3 4 4 1).validate 262128 = .ringSize ∧ (anchorWith 4 13 4 1).validate 262128 = .ringSize
    ∧ (anchorWith 4 4 11 1).validate 262128 = .ringSize ∧ (anchorWith 12 4 4 1).validate 262128 = .ringPlacement
    ∧ (anchorWith 4 4 4 1).validate 48 = .ringPlacement ∧ (anchorWith 4 4 4 1).validate 49 = .none
    ∧ (anchorWith 4 4 4 0).validate 262128 = .threshold ∧ (anchorWith 4 4 4 256).validate 262128 = .threshold := by decide

/-- The smallest and the largest rings that fit, disjoint, and each check's first failure. -/
theorem witness_AnchorChecksInOrder : (anchorWith 4 4 4 1).version = 1
    ∧ ((4 ≤ 10 ∧ 10 ≤ 12) ∧ (4 ≤ 12 ∧ 12 ≤ 12) ∧ (4 ≤ 10 ∧ 10 ≤ 10))
    ∧ ((4096 ∣ 0x10000 ∧ 4096 ∣ 0x20000 ∧ 4096 ∣ 0x30000)
      ∧ 0x10000 + 2 ^ 4 * 64 ≤ 49 * 4096 ∧ 0x20000 + 2 ^ 4 * 16 ≤ 49 * 4096 ∧ 0x30000 + 2 ^ 4 * 32 ≤ 49 * 4096)
    ∧ (∀ b : Nat, ¬((0x10000 ≤ b ∧ b < 0x10000 + 2 ^ 4 * 64) ∧ 0x20000 ≤ b ∧ b < 0x20000 + 2 ^ 4 * 16)
      ∧ ¬((0x10000 ≤ b ∧ b < 0x10000 + 2 ^ 4 * 64) ∧ 0x30000 ≤ b ∧ b < 0x30000 + 2 ^ 4 * 32)
      ∧ ¬((0x20000 ≤ b ∧ b < 0x20000 + 2 ^ 4 * 16) ∧ 0x30000 ≤ b ∧ b < 0x30000 + 2 ^ 4 * 32))
    ∧ ¬(0x30000 + 2 ^ 4 * 32 ≤ 48 * 4096) ∧ ¬(1 ≤ 0 ∧ 0 ≤ 255) ∧ ¬(1 ≤ 256 ∧ 256 ≤ 255) ∧ ¬(4 ≤ 3 ∧ 3 ≤ 12) := by
  refine ⟨rfl, by decide, by decide, fun b => ?_, by decide, by decide, by decide, by decide⟩
  omega

/-- The words of an anchor that passes, of version v. -/
def anchorWords (v : Nat) : List DataWord :=
  [BitVec.ofNat 64 (v + 0x100 + 16 * 0x10000), 0x10000, 0x20000, 0x30000, 0x040404, 0, 0, 0]

/-- An anchor read in progress that found these words, with these index registers. -/
def starting (words : List DataWord) (sqTail cqHead eqHead : BitVec 16) : State :=
  inTenure (quiet.withEngine { Engine.reset with state := .starting, sqTail, cqHead, eqHead }) .anchorRead 0x100
    (goodReports words)

/-- An anchor that fails, one that passes with the largest tail, each index register's first illegal value, and a word
lost. -/
theorem witness_AnchorReadEndStartsOrFails : (starting (anchorWords 1) 15 0 0).resetAsserted = false
    ∧ (starting (anchorWords 1) 15 0 0).engine.state = .starting
    ∧ (starting (anchorWords 1) 15 0 0).arbiter.tenure = some ⟨.anchorRead, 0x100, goodReports (anchorWords 1), false⟩
    ∧ (∀ v ∈ [1, 2], (goodReports (anchorWords v)).filterMap (fun r => r.decoded.map (·.2)) = anchorWords v)
    ∧ (∀ r ∈ goodReports (anchorWords 1), r.decoded.map (·.1) = some .good)
    ∧ (anchorOfWords (anchorWords 2)).validate quiet.straps.hostFrames ≠ .none
    ∧ (anchorOfWords (anchorWords 1)).validate quiet.straps.hostFrames = .none
    ∧ (15#16).toNat < 2 ^ (anchorOfWords (anchorWords 1)).sq.exponent
    ∧ 2 ^ (anchorOfWords (anchorWords 1)).sq.exponent ≤ (16#16).toNat
    ∧ (starting (anchorWords 1) 15 1 1).engine.cqHead ≠ 0#16 ∧ (starting (anchorWords 1) 15 0 1).engine.eqHead ≠ 0#16
    ∧ ([⟨7, some (.uncorrectable, 0), .unchanged⟩] : List WordReport).any (fun r => r.decoded.map (·.1) == some .uncorrectable)
      = true := by decide

/-- A tenure of each kind that ends so. -/
theorem witness_DiscardedTenuresAndPostsOnlyEnd :
    ∀ w ∈ [Work.completionPost, .eventPost, .anchorRead, .fetch, .copyStep, .slotStep 3, .patrolStep],
      ((running.discardTenure fun _ => true).resetAsserted = false)
      ∧ ((inTenure running w 3 []).discardTenure fun _ => true).arbiter.tenure = some ⟨w, 3, [], true⟩ := by decide

/-- A fetch that ends in RUNNING, QUIESCING and HALTED, one that lost a word and one that lost none, and no request
waiting. -/
theorem witness_FetchEndTakesTheRecord :
    (∀ st ∈ [EngineState.running, .quiescing, .halted],
      (inTenure (inEngine st) .fetch 0x400 (goodReports (anchorWords 1))).engine.state = st
      ∧ (inTenure (inEngine st) .fetch 0x400 (goodReports (anchorWords 1))).resetAsserted = false
      ∧ (inTenure (inEngine st) .fetch 0x400 (goodReports (anchorWords 1))).engine.rings = some rings
      ∧ (inTenure (inEngine st) .fetch 0x400 (goodReports (anchorWords 1))).arbiter.tenure
        = some ⟨.fetch, 0x400, goodReports (anchorWords 1), false⟩
      ∧ ((inEngine st).tables.migration = none → (inEngine st).tables.retireQueue = []))
    ∧ (∀ r ∈ goodReports (anchorWords 1), r.decoded.map (·.1) = some .good)
    ∧ ∃ x ∈ ([⟨7, some (.poisoned, 0), .unchanged⟩] : List WordReport), ∃ c d, x.decoded = some (c, d)
        ∧ (c = .uncorrectable ∨ c = .poisoned) :=
  ⟨by decide, by decide, _, List.mem_singleton.2 rfl, _, _, rfl, .inr rfl⟩

/-- Fields at the top of their widths. -/
theorem witness_CommandRecordRoundTrip : (Command.slot (.copy (2 ^ 32 - 1) (2 ^ 32 - 1) (2 ^ 32 - 1))).fits = true
    ∧ (Command.setRegion 255 true (2 ^ 64 - 1) 255 ⟨true, true, true, true⟩).fits = true
    ∧ (Command.install (2 ^ 32 - 1) (2 ^ 16 - 1)).fits = true := by decide

/-- 11.3, written out byte by byte: COPY, tag 1234h, source 1000h, destination 2000h, length 10h. -/
theorem test_record_copy : recordOfWords [0x0000000000041234, 0x0000200000001000, 0x10, 0, 0, 0, 0, 0]
    = ⟨0x1234, 4, some (.slot (.copy 0x1000 0x2000 0x10))⟩ := by decide

/-- 11.3: SET_REGION, tag 41h, valid, index 4, exponent 20, base 100000h, WRITE_PROTECT. -/
theorem test_record_setRegion : recordOfWords [0x00000000010A0041, 0, 0, 0x1404000000000000, 1, 0x100000, 0, 0]
    = ⟨0x41, 10, some (.setRegion 4 true 0x100000 20 ⟨true, false, false, false⟩)⟩ := by decide

/-- Every count at the top of its width. -/
theorem witness_PostedRecordLayouts : (65535 : Nat) < 2 ^ 16 ∧ (2 ^ 25 - 1 : Nat) < 2 ^ 25 ∧ (2 ^ 28 - 1 : Nat) < 2 ^ 28
    ∧ (7 : Nat) < 8 ∧ (71 : Nat) < 72 ∧ (2 ^ 22 - 1 : Nat) < 2 ^ 22 ∧ ∀ k, (some 63 : Option Nat) = some k → k < 64 := by
  refine ⟨by decide, by decide, by decide, by decide, by decide, by decide, fun k h => ?_⟩
  cases h
  decide

/-- One place of room left in each ring, the producers at the wrap. -/
def posting (heads : BitVec 16) : State := running.withEngine { running.engine with
  cqHead := heads, eqHead := heads, rings := some { rings with cqProducer := 15, eqProducer := 15 } }

theorem witness_CompletionPostIsSettledAtItsGrant :
    let s := (posting 1).withAdmission { running.admission with backlog := [abortCompletion 3 .success] }
    s.engine.state.posts = true ∧ s.engine.rings = some { rings with cqProducer := 15, eqProducer := 15 }
    ∧ s.admission.backlog = [abortCompletion 3 .success]
    ∧ ringDistance (2 ^ rings.cq.exponent) 15 s.engine.cqHead.toNat < 2 ^ rings.cq.exponent - 1 := by decide

theorem witness_EventPostIsSettledAtItsGrant :
    let s := (posting 1).withNews ⟨[{ kind := .patrolPass, source := .patrol }], none, none⟩
    s.engine.state.posts = true ∧ s.engine.rings = some { rings with cqProducer := 15, eqProducer := 15 }
    ∧ s.admission.backlog = [] ∧ s.news.events = [{ kind := .patrolPass, source := .patrol }]
    ∧ ringDistance (2 ^ rings.eq.exponent) 15 s.engine.eqHead.toNat < 2 ^ rings.eq.exponent - 1 := by decide

/-- A completion waits for a full completion ring, and the event ring has one place. -/
def blocked : State :=
  let s := (posting 0).withEngine { (posting 0).engine with eqHead := 1 }
  (s.withAdmission { s.admission with backlog := [abortCompletion 3 .success] }).withNews
    ⟨[{ kind := .patrolPass, source := .patrol }], none, none⟩

theorem witness_EventPostIsSettledAtItsGrant_completionWaits : blocked.engine.state.posts = true
    ∧ blocked.engine.rings = some { rings with cqProducer := 15, eqProducer := 15 }
    ∧ blocked.admission.backlog = [abortCompletion 3 .success]
    ∧ 2 ^ rings.cq.exponent - 1 ≤ ringDistance (2 ^ rings.cq.exponent) 15 blocked.engine.cqHead.toNat
    ∧ blocked.news.events = [{ kind := .patrolPass, source := .patrol }]
    ∧ ringDistance (2 ^ rings.eq.exponent) 15 blocked.engine.eqHead.toNat < 2 ^ rings.eq.exponent - 1 := by decide

/-- R21: the first ready kind is presented, so the event goes ahead of the completion that finds no room. -/
theorem test_event_passes_blocked_completion :
    (blocked.grant .ring).arbiter.tenure.map (·.work) = some .eventPost
    ∧ (blocked.grant .ring).admission.backlog = blocked.admission.backlog := by decide

/-! ### Migration, detections and the patrol -/

/-- `mapped` with a request behind the migration, and suspect entries that are QUEUED, MIGRATING and NONE. -/
def retiring : State := mapped.withTables { mapped.tables with
  retireQueue := [⟨9, .command 10, .command⟩]
  suspects := some ⟨9, 1, 0, 576, 0, .queued⟩ :: some ⟨7, 1, 1, 448, 0, .migrating⟩ :: some ⟨8, 1, 0, 512, 0, .none⟩
    :: List.replicate 29 none }

theorem retiring_entry {e : SuspectEntry} (h : e ∈ retiring.tables.suspects.flatMap (·.toList)) :
    e = ⟨9, 1, 0, 576, 0, .queued⟩ ∨ e = ⟨7, 1, 1, 448, 0, .migrating⟩ ∨ e = ⟨8, 1, 0, 512, 0, .none⟩ := by
  simpa [retiring, State.withTables] using h

theorem retiring_laws : retiring.RetirementLaws where
  tables := ⟨mapped_consistent.frames, mapped_consistent.named, mapped_consistent.assigned, mapped_consistent.target,
    mapped_consistent.unit, mapped_consistent.entry⟩
  suspects := by decide
  queueFrames := by decide
  queueNotMigrating := by
    intro m hm r hr
    cases hm
    cases List.mem_singleton.1 hr
    decide
  queueServed := by
    intro h
    cases h
  idleWhenOff := by
    intro h
    cases h
  queuedEntries := by
    intro e he
    rcases retiring_entry he with rfl | rfl | rfl
    · exact ⟨fun _ => ⟨_, List.mem_singleton.2 rfl, rfl⟩, fun _ => rfl⟩
    · exact ⟨fun h => (by cases h), fun ⟨r, hr, hf⟩ => (by cases List.mem_singleton.1 hr; cases hf)⟩
    · exact ⟨fun h => (by cases h), fun ⟨r, hr, hf⟩ => (by cases List.mem_singleton.1 hr; cases hf)⟩
  migratingEntries := by
    intro e he
    rcases retiring_entry he with rfl | rfl | rfl
    · exact ⟨fun h => (by cases h), fun ⟨m, hm, hf⟩ => (by cases hm; cases hf)⟩
    · exact ⟨fun _ => ⟨_, rfl, rfl⟩, fun _ => rfl⟩
    · exact ⟨fun h => (by cases h), fun ⟨m, hm, hf⟩ => (by cases hm; cases hf)⟩
  anchorRead := by
    intro t ht
    cases ht
  clearedInReset := by
    intro h
    cases h

theorem witness_StepsKeepRetirementLaws : retiring.RetirementLaws
    ∧ ∃ t, step (retiring.withPending [.abort 11 9]) = .next t := ⟨retiring_laws, _, rfl⟩

/-- The step of line 62, which advances, and that of line 63, which cuts over. -/
def stepping (cursor : Nat) (reports : List WordReport) : State := inTenure (running.withTables { mapped.tables with
  remap := [⟨5, .active 0⟩, ⟨7, .migrating (some 1) 2 cursor⟩] }) .copyStep (7 * 64 + cursor) reports

theorem witness_CopyStepEndAdvancesTheCursor : (stepping 62 []).resetAsserted = false
    ∧ (stepping 62 []).arbiter.tenure = some ⟨.copyStep, 7 * 64 + 62, [], false⟩
    ∧ (stepping 62 []).tables.migration = some ⟨7, .command 9, .command, 2, some 1, 0, 0, 0, 0, .waiting⟩
    ∧ (stepping 62 []).tables.entryOf 7 = some ⟨7, .migrating (some 1) 2 62⟩ ∧ 62 < 63 := by decide

/-- The last step with a word lost, nothing behind it; and with a request behind it that starts on spare 3. -/
theorem witness_CopyStepEndCutsOver :
    let s := stepping 63 [⟨0, some (.corrected 71, 0), .clean⟩, ⟨7, some (.poisoned, 0), .poison⟩]
    s.resetAsserted = false ∧ (∃ reports, s.arbiter.tenure = some ⟨.copyStep, 7 * 64 + 63, reports, false⟩)
    ∧ s.tables.migration = some ⟨7, .command 9, .command, 2, some 1, 0, 0, 0, 0, .waiting⟩
    ∧ s.tables.entryOf 7 = some ⟨7, .migrating (some 1) 2 63⟩ ∧ s.tables.retireQueue = []
    ∧ (let t := s.withTables { s.tables with retireQueue := [⟨5, .auto, .uncorrectable⟩] }
      t.tables.retireQueue = ⟨5, .auto, .uncorrectable⟩ :: [] ∧ t.engine.state.retires = true
      ∧ ((t.tables.spares.set 2 .assigned).set 1 .failed)[3]? = some .free
      ∧ ∀ j < 3, ((t.tables.spares.set 2 .assigned).set 1 .failed)[j]? ≠ some .free) := by
  refine ⟨rfl, ⟨_, rfl⟩, rfl, by decide, rfl, rfl, rfl, by decide, by decide⟩

/-- 05, worked example: the last Copy Step with two requests behind it and every spare taken. -/
theorem witness_CopyStepEndCutsOver_noSpare : lastStep.resetAsserted = false ∧ lastStep.engine.state.retires = true
    ∧ lastStep.arbiter.tenure = some ⟨.copyStep, 0xC40 * 64 + 63, goodReports (List.replicate 8 0), false⟩
    ∧ lastStep.tables.migration = some ⟨0xC40, .command 0x21, .command, 15, some 6, 1, 1, 1, 1, .inTenure⟩
    ∧ lastStep.tables.entryOf 0xC40 = some ⟨0xC40, .migrating (some 6) 15 63⟩ ∧ lastStep.tables.retireQueue ≠ []
    ∧ ∀ t : Nat, ((lastStep.tables.spares.set 15 .assigned).set 6 .failed)[t]? ≠ some .free := by
  refine ⟨rfl, rfl, rfl, rfl, by decide, by decide, ?_⟩
  intro t h
  have none_free : SpareState.free ∉ (lastStep.tables.spares.set 15 .assigned).set 6 .failed := by decide
  exact none_free (List.mem_of_getElem? h)

/-- A frame with an entry at the top of its count, one without, and a pinned one, the pointer at its last place. -/
def suspected : State := running.withTables { running.tables with
  evictionPointer := 31
  suspects := some ⟨9, 255, 0, 576, 0, .queued⟩ :: List.replicate 31 (some ⟨8, 1, 0, 512, 0, .none⟩) }

theorem witness_DetectionIsCounted : suspected.tables.suspects.length = 32 ∧ suspected.tables.evictionPointer < 32
    ∧ suspected.tables.suspectOf 9 = some ⟨9, 255, 0, 576, 0, .queued⟩ ∧ suspected.tables.suspectOf 10 = none
    ∧ 9 ≠ 640 / 64 ∧ (⟨9, 255, 0, 576, 0, .queued⟩ : SuspectEntry).pinned = true
    ∧ ∃ i < 32, (placeAt suspected.tables.suspects i).all (fun x => !x.pinned) = true :=
  ⟨by decide, by decide, by decide, by decide, by decide, by decide, 31, by decide, by decide⟩

/-- An entry the pointer names and one it does not; place 1 the lowest free; and a full table whose pinned places 31 and 0 the
pointer passes, from its last place to place 1. -/
theorem witness_DetectionIsCounted_place :
    placeAt suspected.tables.suspects 0 = some ⟨9, 255, 0, 576, 0, .queued⟩
    ∧ placeAt suspected.tables.suspects 1 = some ⟨8, 1, 0, 512, 0, .none⟩
    ∧ (∀ j < 1, ∀ e, placeAt suspected.tables.suspects j = some e → e.frame ≠ 8)
    ∧ (let s := suspected.tables.suspects.set 1 none
      placeAt s 1 = none ∧ ∀ j < 1, placeAt s j ≠ none)
    ∧ (let s := suspected.tables.suspects.set 31 (some ⟨7, 1, 0, 448, 0, .migrating⟩)
      (∀ i < 32, placeAt s i ≠ none) ∧ (∀ j < 2, (placeAt s ((31 + j) % 32)).any (·.pinned) = true)
      ∧ (placeAt s ((31 + 2) % 32)).any (·.pinned) = false) := by
  refine ⟨rfl, rfl, ?_, by decide, by decide⟩
  intro j hj e h
  obtain rfl : j = 0 := by omega
  cases h
  decide

/-- R91 to R93: the entry at the pointer is updated and passed; the lowest free place is used and the pointer moves on from
31; the full table's first unpinned place from 31 on is 1. -/
theorem test_enterDetection_place :
    (let s := (suspected.withTables { suspected.tables with evictionPointer := 1 }).enterDetection 515 2 false
     placeAt s.tables.suspects 1 = some ⟨8, 2, 0, 515, 2, .none⟩ ∧ s.tables.evictionPointer = 2)
    ∧ (let s := (suspected.withTables { suspected.tables with
          suspects := suspected.tables.suspects.set 3 none }).enterDetection 640 0 true
      placeAt s.tables.suspects 3 = some ⟨10, 0, 1, 640, 0, .none⟩ ∧ s.tables.evictionPointer = 0)
    ∧ (let s := (suspected.withTables { suspected.tables with
          suspects := suspected.tables.suspects.set 31 (some ⟨7, 1, 0, 448, 0, .migrating⟩) }).enterDetection 640 0 true
      placeAt s.tables.suspects 1 = some ⟨10, 0, 1, 640, 0, .none⟩ ∧ s.tables.evictionPointer = 2) := by decide

/-- AUTO_RETIRE everywhere; spare 0 is withdrawn and spare 1 is the lowest FREE one. -/
def willing : State := running.withTables { running.tables with
  defaults := ⟨false, false, false, true⟩
  spares := .failed :: List.replicate 15 .free }

/-- A part willing to retire whose spare 1 alone may be FREE, with requests behind a migration of frame 7. -/
def offering (spare : SpareState) (queued : Nat) : State := willing.withTables { willing.tables with
  spares := [.target, spare]
  remap := if queued = 0 then [] else [⟨7, .migrating none 0 3⟩]
  migration := if queued = 0 then none else some ⟨7, .auto, .threshold, 0, none, 0, 0, 0, 0, .waiting⟩
  retireQueue := (List.range (queued - 1)).map fun i => ⟨100 + i, .auto, .threshold⟩
  suspects := some ⟨10, 15, 0, 640, 0, .none⟩ :: some ⟨11, 14, 0, 704, 0, .none⟩ :: List.replicate 30 none }

/-- Frame 10's sixteenth CORRECTED word meets the threshold, frame 11's fifteenth does not; frame 12 has no entry. The offer
starts, finds no spare, waits behind seven requests, or finds eight. -/
theorem witness_LostWordStartsRetirement :
    (∀ p ∈ [(SpareState.free, 0), (.failed, 0), (.free, 8), (.free, 9)],
      (offering p.1 p.2).engine.state.retires = true
      ∧ ((offering p.1 p.2).tables.attributesOfFrame 10).autoRetire = true
      ∧ (offering p.1 p.2).tables.suspectOf 10 = some ⟨10, 15, 0, 640, 0, .none⟩
      ∧ (offering p.1 p.2).tables.suspectOf 11 = some ⟨11, 14, 0, 704, 0, .none⟩
      ∧ (offering p.1 p.2).tables.suspectOf 12 = none
      ∧ (offering p.1 p.2).tables.suspects.length = 32 ∧ (offering p.1 p.2).tables.evictionPointer < 32
      ∧ (offering p.1 p.2).tables.migratingFrame ≠ some 10 ∧ (offering p.1 p.2).tables.queued 10 = false
      ∧ (offering p.1 p.2).engine.threshold ≤ min 255 (15 + 1) ∧ min 255 (14 + 1) < (offering p.1 p.2).engine.threshold)
    ∧ ((offering .free 0).tables.migration = none ∧ (offering .free 0).tables.retireQueue = []
      ∧ (offering .free 0).tables.spares[1]? = some .free ∧ ∀ k < 1, (offering .free 0).tables.spares[k]? ≠ some .free)
    ∧ (∀ k : Nat, (offering .failed 0).tables.spares[k]? ≠ some .free)
    ∧ ((offering .free 8).tables.migration.isSome = true ∧ (offering .free 8).tables.retireQueue.length < 8)
    ∧ 8 ≤ (offering .free 9).tables.retireQueue.length := by
  refine ⟨by decide, by decide, fun k => ?_, by decide, by decide⟩
  rcases k with _ | _ | k <;> simp [offering, State.withTables]

/-- Counts of 1, which decay to 0, and of 2, which do not; a free place. -/
theorem witness_DecayHalvesEveryCount : placeAt retiring.tables.suspects 2 = some ⟨8, 1, 0, 512, 0, .none⟩
    ∧ placeAt retiring.tables.suspects 0 = some ⟨9, 1, 0, 576, 0, .queued⟩ ∧ placeAt retiring.tables.suspects 31 = none := by
  decide

/-- The cursor before the last host line with PATROL there by default; nowhere PATROL; busy; inactive. -/
theorem witness_PatrolExpiryFindsTheNextLine :
    (let s := (willing.withTables { willing.tables with defaults := ⟨false, true, true, false⟩ }).withPatrol
        ⟨true, 1, 16776191, .idle, false⟩
     s.resetAsserted = false ∧ s.patrol.enabled = true ∧ s.engine.state.posts = true ∧ s.patrol.phase = .idle
      ∧ s.patrol.cursor ≤ 16776191 ∧ 16776191 < s.straps.hostLines ∧ (s.tables.attributesOfLine 16776191).patrol = true
      ∧ ∀ l, s.patrol.cursor ≤ l → l < 16776191 → (s.tables.attributesOfLine l).patrol = false)
    ∧ (∀ l, (running.tables.attributesOfLine l).patrol = false)
    ∧ (patrolled 0).patrol.phase = .idle ∧ PatrolPhase.waiting 3 true ≠ .idle ∧ running.patrol.enabled = false
    ∧ (inEngine .halted).engine.state.posts = false := by
  refine ⟨⟨rfl, rfl, rfl, rfl, by decide, by decide, by decide, fun l h1 h2 => ?_⟩, fun _ => rfl, rfl, by simp, rfl, rfl⟩
  exact absurd (Nat.lt_of_le_of_lt h1 h2) (Nat.lt_irrefl 16776191)

/-- The line before the last, the last, and a disowned tenure. -/
theorem witness_PatrolTenureEndMovesOn : (inTenure (patrolled 3) .patrolStep 67106814 []).resetAsserted = false
    ∧ (inTenure (patrolled 3) .patrolStep 67106814 []).arbiter.tenure = some ⟨.patrolStep, 67106814, [], false⟩
    ∧ (patrolled 3).patrol.disowned = false ∧ 67106814 + 1 < (patrolled 3).straps.hostLines
    ∧ (patrolled 3).straps.hostLines ≤ 67106815 + 1
    ∧ ((patrolled 3).withPatrol { (patrolled 3).patrol with disowned := true }).patrol.disowned = true := by decide

/-! ### Admission, slots and the commands -/

theorem witness_StepsKeepTagsDistinctAndLiveBound : retiring.LiveLaws
    ∧ ∃ t, step (retiring.withPending [.query 11 9]) = .next t := ⟨⟨by decide, by decide⟩, _, rfl⟩

theorem witness_StepsKeepQueuesAndCountersBounded : (contended 8).QueuesBounded ∧ (contended 8).CountersBounded
    ∧ (contended 8).Shaped ∧ (contended 8).port.headIsMemory
    ∧ ∃ t, step ((contended 8).withPending [.hostRead 3 1]) = .next t :=
  ⟨⟨by decide, by decide, by decide, by decide⟩, ⟨by decide, by decide, by decide⟩, ⟨by decide, by decide, by decide, by decide⟩,
    trivial, _, rfl⟩

/-- The last host line in every place that holds a line, and rings that end where host memory does. -/
def outermost : State :=
  let s := running.withEngine { running.engine with
    anchorRequest := some 16776191
    rings := some { rings with sq := ⟨262128 * 4096 - 2 ^ 4 * 64, 4⟩, fetch := 15 } }
  let s := s.withTables { s.tables with retireQueue := [⟨262127, .command 4, .command⟩] }
  let s := s.withAdmission { s.admission with
    pendingList := [⟨5, .query 262127⟩]
    slots := [none, some ⟨6, .copy 16776184 16776176 8, 7, 0, 0, 0, none, .held, none⟩, none, none] }
  inTenure ((s.withPort ⟨.readHeld 16776191 1, [.memory 16776191 1 0], none⟩).withPatrol
    { s.patrol with phase := .waiting 16776191 true }) .drain 16776191 []

theorem witness_StepsKeepQueuesAndCountersBounded_addresses : outermost.AddressesInRange
    ∧ ∃ t, step (outermost.withPending [.drainEnd]) = .next t := by
  refine ⟨?_, _, rfl⟩
  exact {
    remap := ⟨by decide, by decide⟩
    cursors := by
      intro e he
      cases he
    queue := by decide
    migration := by
      intro m hm
      cases hm
    tenure := by
      intro t ht
      cases ht
      decide
    heldRead := by
      intro l m h
      cases h
      decide
    heldWrite := by
      intro l m d h
      cases h
    buffer := by
      intro l m d h
      cases List.mem_singleton.1 h
      decide
    pending := by decide
    slots := by
      intro k sl h
      rcases k with _ | _ | _ | _ | k <;> cases h
      decide
    anchor := by
      intro l h
      cases h
      decide
    rings := by
      intro r h
      cases h
      refine ⟨⟨by decide, by decide⟩, ⟨by decide, by decide⟩, by decide, by decide⟩
    patrol := by
      intro l r h
      cases h
      decide
    inReset := by
      intro h
      cases h }

theorem slotted_compatible : slotted.SlotsCompatible := by
  intro i j a b hij ha hb
  rcases i with _ | _ | _ | _ | i <;> rcases j with _ | _ | _ | _ | j <;>
    first | exact absurd rfl hij | (cases ha; done) | (cases hb; done) | (cases ha; cases hb; rfl)

theorem witness_OccupiedSlotsNeverConflict : slotted.SlotsCompatible
    ∧ ∃ t, step (slotted.withPending [.verify 9 100 8]) = .next t := ⟨slotted_compatible, _, rfl⟩

/-- One record for each check it fails, each passing the checks before. -/
theorem witness_RecordsAreJudgedInOrder :
    (Command.slot (.scrub 0 16777217 false)).fieldsOk 16 = false ∧ (Command.slot (.scrub 0 16777216 false)).fieldsOk 16 = true
    ∧ (Command.slot (.verify 16776191 2)).fieldsOk 16 = true
    ∧ (Command.slot (.verify 16776191 2)).addressesOk 262128 = false
    ∧ (Command.slot (.verify 16776191 1)).addressesOk 262128 = true ∧ (1#16) ∈ slotted.tagSet := by decide

/-- R179: the three codes that name no kind, the first and the last that do, and a SCRUB with every reserved bit set. -/
theorem witness_RecordsAreJudgedInOrder_words :
    (∀ k ∈ [0, 14, 15], (recordOfWords [BitVec.ofNat 64 (k * 65536)]).command = none)
    ∧ (recordOfWords [0x10000]).command.map (·.kindCode) = some 1 ∧ (recordOfWords [0xD0000]).command.map (·.kindCode) = some 13
    ∧ (∀ i < 8, ([0xFFFFFFFFFEF10007, 0xFFFFFFFF00000064, 0xFFFFFFFF00000008, 1, 1, 1, 1, 1] : List DataWord).getD i 0#64
          &&& (usedBits 1).getD i 0#64
        = ([0x10007, 100, 8, 0, 0, 0, 0, 0] : List DataWord).getD i 0#64 &&& (usedBits 1).getD i 0#64)
    ∧ recordOfWords [0xFFFFFFFFFEF10007, 0xFFFFFFFF00000064, 0xFFFFFFFF00000008, 1, 1, 1, 1, 1]
      = ⟨7, 1, some (.slot (.scrub 100 8 false))⟩ := by decide

/-- R131, R179: the fields at the ends of their ranges. -/
theorem test_fields_boundaries :
    (∀ l ∈ [0, 16777217], (Command.slot (.fill 0 l 0)).fieldsOk 16 = false ∧ (Command.slot (.verify 0 l)).fieldsOk 16 = false
      ∧ (Command.slot (.copy 0 (2 ^ 25) l)).fieldsOk 16 = false)
    ∧ (Command.slot (.copy 10 13 3)).fieldsOk 16 = true ∧ (Command.slot (.copy 10 12 3)).fieldsOk 16 = false
    ∧ (Command.install 0 16).fieldsOk 16 = false ∧ (Command.withdrawSpare 16).fieldsOk 16 = false
    ∧ (Command.setRegion 8 false 0 20 .clear).fieldsOk 16 = false ∧ (Command.setRegion 7 true 0 19 .clear).fieldsOk 16 = false
    ∧ (Command.setRegion 7 true 0 35 .clear).fieldsOk 16 = false
    ∧ (Command.setRegion 7 true (2 ^ 19) 20 .clear).fieldsOk 16 = false
    ∧ (Command.setRegion 7 false (2 ^ 19) 35 .clear).fieldsOk 16 = true ∧ (Command.setPatrol true 0 false).fieldsOk 16 = false
    ∧ (∀ c ∈ [Command.retire 262128, .install 262128 0, .query 262128, .clearSuspect 262128], c.addressesOk 262128 = false)
    ∧ (Command.retire 262127).addressesOk 262128 = true := by decide

/-- A VERIFY clear of the slots' lines, one that meets the last line of SLOT0's, and no slot free. -/
theorem witness_SlotCommandsIssueOrWait : slotted.admits = true ∧ quiet.admits = false ∧ slotted.admission.pendingList = []
    ∧ (Command.slot (.verify 108 8)).fieldsOk slotted.straps.spareFrames = true
    ∧ (Command.slot (.verify 108 8)).addressesOk slotted.straps.hostFrames = true ∧ (3#16) ∉ slotted.tagSet
    ∧ 2 < slotted.admission.slots.length ∧ slotted.slotAt 2 = none ∧ (∀ j < 2, slotted.slotAt j ≠ none)
    ∧ (∀ j sl, slotted.slotAt j = some sl → sl.command.conflicts (.verify 108 8) = false)
    ∧ ∃ j sl, slotted.slotAt j = some sl ∧ sl.command.conflicts (.verify 107 8) = true := by
  refine ⟨by decide, by decide, by decide, by decide, by decide, by decide, by decide, by decide, by decide, ?_, 0, _, rfl, by decide⟩
  intro j sl h
  rcases j with _ | _ | _ | _ | j <;> cases h <;> decide

/-- R134, R135: a FENCE at the head waits for the slots and blocks the QUERY behind it; with the slots empty both issue; in
HALTED nothing does. -/
theorem witness_SlotCommandsIssueOrWait_list :
    let list := fun (s : State) => s.withAdmission { s.admission with pendingList := [⟨20, .fence⟩, ⟨21, .query 5⟩] }
    (list slotted).issueAll = list slotted ∧ (list (inEngine .halted)).issueAll = list (inEngine .halted)
    ∧ (list (inEngine .quiescing)).issueAll.admission.backlog.map (·.tag) = [20, 21]
    ∧ (list (inEngine .quiescing)).issueAll.admission.pendingList = [] := by decide

/-- A FENCE that waits at the head, a QUERY behind it, and a RETIRE of the last frame that joins behind both. -/
theorem witness_SlotCommandsIssueOrWait_tail :
    let s := slotted.withAdmission { slotted.admission with pendingList := [⟨20, .fence⟩, ⟨21, .query 5⟩] }
    s.admits = true ∧ s.admission.pendingList = ⟨20, .fence⟩ :: [⟨21, .query 5⟩] ∧ s.mayIssue .fence = false
    ∧ (Command.retire 262127).fieldsOk s.straps.spareFrames = true
    ∧ (Command.retire 262127).addressesOk s.straps.hostFrames = true ∧ (22#16) ∉ s.tagSet
    ∧ (∀ target, Command.retire 262127 ≠ .abort target)
    ∧ (after (.retire 22 262127) s).admission.pendingList.map (·.tag) = [20, 21, 22] := by
  refine ⟨by decide, rfl, by decide, by decide, by decide, by decide, (fun _ h => by cases h), by decide⟩

/-- A slot in tenure whose last line this is, whose last line it is not, and one marked aborted. -/
theorem witness_SlotTenureEndStepsOrCompletes :
    let s := inTenure slotted (.slotStep 1) 207 (goodReports [0])
    s.resetAsserted = false ∧ s.arbiter.tenure = some ⟨.slotStep 1, 207, goodReports [0], false⟩
    ∧ s.slotAt 1 = some ⟨2, .scrub 200 8 true, 7, 1, 0, 0, none, .inTenure, none⟩ ∧ s.admission.pendingList = []
    ∧ (∀ r ∈ goodReports [0], ∀ d, r.decoded = some d → d.1 = .good)
    ∧ (SlotCommand.scrub 200 8 true).length ≤ 7 + 1 ∧ 7 + 1 < (SlotCommand.scrub 200 9 true).length := by
  refine ⟨rfl, rfl, rfl, rfl, ?_, by decide, by decide⟩
  intro r hr d hd
  cases List.mem_singleton.1 hr
  cases hd
  rfl

/-- R146: each count rises by the words of its class and stops at 65,535. -/
theorem test_slotTenureEnd_counts :
    let s := inTenure (slotted.withAdmission { slotted.admission with slots := [none,
      some ⟨2, .verify 200 8, 0, 65535, 65534, 3, none, .inTenure, none⟩, none, none] }) (.slotStep 1) 200
      [⟨0, some (.corrected 71, 0), .unchanged⟩, ⟨1, some (.uncorrectable, 0), .unchanged⟩,
        ⟨2, some (.uncorrectable, 0), .unchanged⟩, ⟨3, some (.poisoned, 0), .unchanged⟩]
    ((after .slotTenureEnd s).slotAt 1).map (fun sl => (sl.corrected, sl.uncorrectable, sl.poisoned, sl.progress))
        = some (65535, 65535, 4, 1)
      ∧ ((after .slotTenureEnd s).tables.suspectOf 3).map (fun e => (e.corrected, e.uncorrectable)) = some (1, 2) := by decide

/-- The last host frame: busy, behind a full queue, behind a migration, and with no spare or one. -/
theorem witness_RetireOutcomes : retiring.admits = true ∧ retiring.admission.pendingList = []
    ∧ (262127#32).toNat < retiring.straps.hostFrames ∧ (3#16) ∉ retiring.tagSet ∧ retiring.RetirementLaws
    ∧ retiring.tables.migratingFrame = some 7 ∧ (∃ r ∈ retiring.tables.retireQueue, r.frame = 9)
    ∧ retiring.tables.retireQueue.length < 8 ∧ retiring.tables.migration.isSome = true := by
  refine ⟨by decide, by decide, by decide, by decide, retiring_laws, by decide, ⟨_, List.mem_singleton.2 rfl, rfl⟩,
    by decide, by decide⟩

/-- The laws hold of a part that retires nothing, whatever its spares of these two kinds. -/
theorem idle_laws (spares : List SpareState) (h : ∀ st ∈ spares, st = .free ∨ st = .failed) :
    (running.withTables { running.tables with spares := spares }).RetirementLaws where
  tables := {
    frames := (by decide : (running.tables.remap.map (·.frame)).Nodup)
    named := (by decide : (running.tables.remap.flatMap (·.state.spares)).Nodup)
    assigned := by
      intro k
      constructor
      · intro hk
        rcases h _ (List.mem_of_getElem? hk) with h | h <;> cases h
      · rintro ⟨e, he, -⟩
        cases he
    target := by
      intro k
      constructor
      · intro hk
        rcases h _ (List.mem_of_getElem? hk) with h | h <;> cases h
      · rintro ⟨e, he, -⟩
        cases he
    unit := by
      intro m hm
      cases hm
    entry := by
      intro e he
      cases he }
  suspects := (by decide : running.tables.SuspectsDistinct)
  queueFrames := (by decide : (running.tables.retireQueue.map (·.frame)).Nodup)
  queueNotMigrating := by
    intro m hm
    cases hm
  queueServed := fun _ => rfl
  idleWhenOff := fun _ => rfl
  queuedEntries := by
    intro e he
    exact absurd he (by simp [running, inEngine, quiet, State.withTables, State.withEngine, after, exec,
      execDeviceResetRelease, State.sampleStraps, State.reset, Tables.reset, State.withReset, State.withStraps])
  migratingEntries := by
    intro e he
    exact absurd he (by simp [running, inEngine, quiet, State.withTables, State.withEngine, after, exec,
      execDeviceResetRelease, State.sampleStraps, State.reset, Tables.reset, State.withReset, State.withStraps])
  anchorRead := by
    intro t ht
    cases ht
  clearedInReset := by
    intro h
    cases h

/-- No spare FREE, and spare 1 the lowest FREE one. -/
theorem witness_RetireOutcomes_idle :
    (running.withTables { running.tables with spares := [.failed] }).RetirementLaws
    ∧ (running.withTables { running.tables with spares := [.failed, .free] }).RetirementLaws
    ∧ running.admits = true ∧ running.tables.migratingFrame = none ∧ running.tables.migration = none
    ∧ (∀ k : Nat, ([.failed] : List SpareState)[k]? ≠ some .free)
    ∧ ([.failed, .free] : List SpareState)[1]? = some .free ∧ ∀ j < 1, ([.failed, .free] : List SpareState)[j]? ≠ some .free := by
  refine ⟨idle_laws _ (by simp), idle_laws _ (by simp), by decide, by decide, by decide, ?_, by decide, by decide⟩
  intro k
  rcases k with _ | k <;> simp

/-- A spare that backs a frame and one that is FREE, the last of the pool. -/
theorem witness_InstallOutcomes : mapped.admits = true ∧ mapped.admission.pendingList = []
    ∧ (262127#32).toNat < mapped.straps.hostFrames ∧ (15#16).toNat < mapped.straps.spareFrames ∧ (3#16) ∉ mapped.tagSet
    ∧ mapped.tables.spares[(0#16).toNat]? ≠ some .free
    ∧ ¬(mapped.tables.spares[(15#16).toNat]? ≠ some .free ∨ mapped.tables.entryOf (262127#32).toNat ≠ none
      ∨ ∃ r ∈ mapped.tables.retireQueue, r.frame = (262127#32).toNat) := by
  refine ⟨by decide, by decide, by decide, by decide, by decide, by decide, ?_⟩
  rintro (h | h | ⟨r, hr, -⟩)
  · exact h (by decide)
  · exact h (by decide)
  · cases hr

theorem witness_WithdrawSpareOutcomes : mapped.admits = true ∧ mapped.admission.pendingList = []
    ∧ (15#16).toNat < mapped.straps.spareFrames ∧ mapped.straps.spareFrames ≤ (16#16).toNat ∧ (3#16) ∉ mapped.tagSet
    ∧ mapped.tables.spares[(15#16).toNat]? = some .free ∧ mapped.tables.spares[(2#16).toNat]? = some .target := by decide

/-- A frame that migrates, one that waits, one that is ACTIVE and one with nothing. -/
theorem witness_QueryReportsTheFrame : retiring.admits = true ∧ retiring.admission.pendingList = []
    ∧ (∀ f ∈ [7#32, 9#32, 5#32, 262127#32], f.toNat < retiring.straps.hostFrames) ∧ (3#16) ∉ retiring.tagSet := by
  refine ⟨by decide, by decide, fun f hf => ?_, by decide⟩
  simp only [List.mem_cons, List.not_mem_nil, or_false] at hf
  rcases hf with rfl | rfl | rfl | rfl <;> decide

theorem witness_ClearSuspectOutcomes : retiring.admits = true ∧ retiring.admission.pendingList = []
    ∧ (3#16) ∉ retiring.tagSet ∧ (262127#32).toNat < retiring.straps.hostFrames
    ∧ retiring.straps.hostFrames ≤ (262128#32).toNat
    ∧ retiring.tables.suspectOf 262127 = none
    ∧ retiring.tables.suspectOf 7 = some ⟨7, 1, 1, 448, 0, .migrating⟩
    ∧ retiring.tables.suspectOf 8 = some ⟨8, 1, 0, 512, 0, .none⟩ := by decide

/-- Entry 2 from 0 to 1FFFFFh with PATROL and REPAIR, entry 5 over its upper half with WRITE_PROTECT alone, AUTO_RETIRE by
default. -/
def regions : Tables := { running.tables with
  regions := [none, none, some ⟨0, 21, ⟨false, true, true, false⟩⟩, none, none,
    some ⟨0x100000, 20, ⟨true, false, false, false⟩⟩, none, none]
  defaults := ⟨false, false, false, true⟩ }

/-- R43: the first byte, the last byte and the bytes next to them. -/
theorem test_region_covers : (let r : Region := ⟨0x100000, 20, ⟨true, false, false, false⟩⟩
    [0xFFFFF, 0x100000, 0x1FFFFF, 0x200000].map r.covers) = [false, true, true, false] := by decide

/-- R44: the highest-indexed entry that covers, as a set, at the lines and frames either side of each edge. -/
theorem test_region_lookup :
    [0x3FFF, 0x4000, 0x7FFF, 0x8000].map regions.attributesOfLine
      = [⟨false, true, true, false⟩, ⟨true, false, false, false⟩, ⟨true, false, false, false⟩, ⟨false, false, false, true⟩]
    ∧ [0xFF, 0x100, 0x1FF, 0x200].map regions.attributesOfFrame
      = [⟨false, true, true, false⟩, ⟨true, false, false, false⟩, ⟨true, false, false, false⟩, ⟨false, false, false, true⟩] := by
  decide

/-- A table that holds only what R43 allows. -/
theorem witness_RegionPatrolAndFence_regions :
    ∀ r, some r ∈ regions.regions → 20 ≤ r.exponent ∧ 2 ^ r.exponent ∣ r.base := by
  intro r h
  have : r = ⟨0, 21, ⟨false, true, true, false⟩⟩ ∨ r = ⟨0x100000, 20, ⟨true, false, false, false⟩⟩ := by
    simpa [regions] using h
  rcases this with rfl | rfl <;> decide

/-- The smallest and the largest region, the last index, and the slots empty or not. -/
theorem witness_RegionPatrolAndFence : running.admits = true ∧ running.admission.pendingList = [] ∧ (3#16) ∉ running.tagSet
    ∧ (7#8).toNat < 8 ∧ 20 ≤ (20#8).toNat ∧ (34#8).toNat ≤ 34 ∧ 2 ^ (20#8).toNat ∣ (0x100000#64).toNat
    ∧ 2 ^ (34#8).toNat ∣ (0#64).toNat ∧ (1#16) ≠ 0#16 ∧ (∀ k, running.slotAt k = none)
    ∧ slotted.admits = true ∧ slotted.admission.pendingList = [] ∧ ∃ k, slotted.slotAt k ≠ none := by
  refine ⟨by decide, by decide, by decide, by decide, by decide, by decide, by decide, by decide, by decide, fun k => ?_,
    by decide, by decide, 0, by decide⟩
  rcases k with _ | _ | _ | _ | k <;> rfl

/-- A slot that waits, one in tenure, a queued RETIRE, the migrating one, and no target. -/
theorem witness_AbortReachesItsTarget : slotted.admits = true ∧ slotted.admission.pendingList = [] ∧ (3#16) ∉ slotted.tagSet
    ∧ slotted.slotAt 0 = some ⟨1, .scrub 100 8 false, 0, 0, 0, 0, none, .waiting, none⟩
    ∧ slotted.slotAt 1 = some ⟨2, .scrub 200 8 true, 7, 1, 0, 0, none, .inTenure, none⟩
    ∧ retiring.admits = true ∧ retiring.admission.pendingList = [] ∧ (3#16) ∉ retiring.tagSet
    ∧ (∀ j, retiring.slotAt j = none) ∧ retiring.tables.retireQueue = [] ++ ⟨9, .command 10, .command⟩ :: []
    ∧ (∀ j, mapped.slotAt j = none) ∧ mapped.tables.retireQueue = [] ∧ (3#16) ∉ mapped.tagSet ∧ mapped.admits = true
    ∧ mapped.tables.entryOf 7 = some ⟨7, .migrating (some 1) 2 3⟩ ∧ mapped.arbiter.tenure = none := by
  refine ⟨by decide, by decide, by decide, by decide, by decide, by decide, by decide, by decide, fun j => ?_, by decide,
    fun j => ?_, by decide, by decide, by decide, by decide, by decide⟩
  · rcases j with _ | _ | _ | _ | j <;> rfl
  · rcases j with _ | _ | _ | _ | j <;> rfl

/-- A target between two others in the pending list. -/
theorem witness_AbortReachesItsTarget_pending :
    let s := slotted.withAdmission { slotted.admission with
      pendingList := [⟨20, .fence⟩, ⟨21, .query 5⟩, ⟨22, .retire 9⟩] }
    s.admits = true ∧ (3#16) ∉ s.tagSet ∧ s.admission.pendingList = [⟨20, .fence⟩] ++ ⟨21, .query 5⟩ :: [⟨22, .retire 9⟩]
    ∧ (∀ q ∈ ([⟨20, .fence⟩] : List PendingCommand), q.tag ≠ 21)
    ∧ ∀ q ∈ ([⟨22, .retire 9⟩] : List PendingCommand), q.tag ≠ 21 := by decide

/-- The migrating RETIRE with its Copy Step in tenure and a request behind it, which then starts on the spare given back. -/
theorem witness_AbortReachesItsTarget_start :
    let s := inTenure retiring .copyStep 451 []
    s.admits = true ∧ s.tables.retireQueue = ⟨9, .command 10, .command⟩ :: []
    ∧ (∀ q ∈ s.tables.retireQueue, q.origin ≠ .command 9)
    ∧ s.tables.migration = some ⟨7, .command 9, .command, 2, some 1, 0, 0, 0, 0, .waiting⟩
    ∧ s.tables.entryOf 7 = some ⟨7, .migrating (some 1) 2 3⟩ ∧ (9 : Nat) ≠ 7
    ∧ (s.tables.spares.set 2 .free)[2]? = some .free ∧ (∀ j < 2, (s.tables.spares.set 2 .free)[j]? ≠ some .free)
    ∧ (after (.abort 3 9) s).arbiter.tenure.map (·.discarded) = some true
    ∧ (after (.abort 3 9) s).tables.entryOf 9 = some ⟨9, .migrating none 2 0⟩
    ∧ (after (.abort 3 9) s).tables.entryOf 7 = some ⟨7, .active 1⟩ := by decide

/-- A list with one place and with none, a pending summary, and each group of engine states. -/
theorem witness_EventsAreRecordedOrCounted : (List.replicate 7 ()).length < 8 ∧ 8 ≤ (List.replicate 8 ()).length
    ∧ running.engine.state.posts = true ∧ running.news.events.length < 8 ∧ running.news.overflow = none
    ∧ (running.withNews ⟨List.replicate 8 { kind := .patrolPass, source := .patrol }, none, none⟩).news.events.length = 8
    ∧ (inEngine .halted).engine.state = .halted ∧ (inEngine .starting).engine.state = .starting
    ∧ running.engine.reportCorrected = false ∧ EventKind.patrolPass ≠ .corrected := by decide

/-- A class B error held, a class A error held, and none. -/
theorem witness_FaultCaptureKeepsTheMostSerious : running.news.capture = none
    ∧ (running.present (.corrected 71) .patrol 3 7).news.capture = some ⟨.corrected 71, .patrol, 3, 7, false⟩
    ∧ (running.present .mergeFailed .hostWrite 3 7).news.capture = some ⟨.mergeFailed, .hostWrite, 3, 7, false⟩ := by decide

end Sys2Proof.Tests
end

section
/-!
What a happening upholds (spec 01 to 10, the bounds of Safety.lean). `Upheld o s` compares a state s within a happening
with the state o in which the happening began: the pins, the straps and the queue of commands stand, and every bound
that o has, s has. Each operation of the machine is shown ONCE to keep `Upheld`; the statements about steps follow.
-/

namespace Sys2Proof.Machine

/-! ### Addresses in range, group by group -/

/-- The Remap Table, the Retire Queue and the Migration Unit name host frames, and cursors stay below 64. -/
structure Tables.InRange (p : Straps) (t : Tables) : Prop where
  frames : ∀ e ∈ t.remap, e.frame < p.hostFrames
  cursors : ∀ e ∈ t.remap, ∀ current target cursor, e.state = .migrating current target cursor → cursor < 64
  queue : ∀ r ∈ t.retireQueue, r.frame < p.hostFrames
  migration : ∀ m, t.migration = some m → m.frame < p.hostFrames

/-- A buffered write names a host line. -/
def PostEntry.InRange (p : Straps) : PostEntry → Prop
  | .memory line _ _ => line < p.hostLines
  | .register _ _ => True

/-- The held request names a host line. -/
def HeldRequest.InRange (p : Straps) : HeldRequest → Prop
  | .idle => True
  | .readHeld line _ => line < p.hostLines
  | .writeHeld e => e.InRange p

/-- The port's held request and its buffered writes name host lines. -/
structure Port.InRange (p : Straps) (q : Port) : Prop where
  held : q.held.InRange p
  buffer : ∀ e ∈ q.buffer, e.InRange p

/-- The command passes checks 2 and 3 of R131. -/
def Command.InRange (p : Straps) (c : Command) : Prop :=
  c.fieldsOk p.spareFrames = true ∧ c.addressesOk p.hostFrames = true

/-- The slot's next line is one of its command's, and these lie in host memory. -/
def Slot.InRange (p : Straps) (sl : Slot) : Prop :=
  sl.progress < sl.command.length ∧ (Command.slot sl.command).addressesOk p.hostFrames = true

/-- The pending commands and the slots name host lines and frames. -/
structure Admission.InRange (p : Straps) (a : Admission) : Prop where
  pending : ∀ q ∈ a.pendingList, q.command.InRange p
  slots : ∀ k sl, placeAt a.slots k = some sl → sl.InRange p

/-- The three rings lie in host memory and the part's indices in them. -/
def Rings.InRange (p : Straps) (r : Rings) : Prop :=
  r.sq.holds 64 p.hostFrames r.fetch ∧ r.cq.holds 16 p.hostFrames r.cqProducer ∧ r.eq.holds 32 p.hostFrames r.eqProducer

/-- The anchor asked for and the rings lie in host memory. -/
structure Engine.InRange (p : Straps) (e : Engine) : Prop where
  anchor : ∀ line, e.anchorRequest = some line → line < p.hostLines
  rings : ∀ r, e.rings = some r → r.InRange p

/-- Every line and frame the part holds lies in host memory, group by group (`State.AddressesInRange` without what it says
of the state in reset). -/
structure State.GroupsInRange (p : Straps) (s : State) : Prop where
  spares : s.tables.spares.length = p.spareFrames
  tables : s.tables.InRange p
  tenure : ∀ t, s.arbiter.tenure = some t → t.line < p.hostLines
  port : s.port.InRange p
  admission : s.admission.InRange p
  engine : s.engine.InRange p
  patrol : ∀ line repair, s.patrol.phase = .waiting line repair → line < p.hostLines

theorem State.AddressesInRange.groups {s : State} (h : s.AddressesInRange) : s.GroupsInRange s.straps where
  spares := h.remap.spares
  tables := ⟨h.remap.frames, h.cursors, h.queue, h.migration⟩
  tenure := h.tenure
  port :=
    { held := by
        cases held : s.port.held with
        | idle => trivial
        | readHeld line mask => exact h.heldRead line mask held
        | writeHeld e =>
          cases e with
          | memory line mask data => exact h.heldWrite line mask data held
          | register _ _ => trivial
      buffer := by
        rintro (⟨line, mask, data⟩ | _) inside
        · exact h.buffer line mask data inside
        · trivial }
  admission := ⟨h.pending, h.slots⟩
  engine := ⟨h.anchor, h.rings⟩
  patrol := h.patrol

theorem Port.InRange.heldWrite {p : Straps} {q : Port} (h : q.InRange p) (line : Nat) (mask : BitVec 64)
    (data : BitVec 512)
    (held : q.held = .writeHeld (.memory line mask data)) : line < p.hostLines := by
  have := h.held
  rwa [held] at this

theorem Port.InRange.heldRead {p : Straps} {q : Port} (h : q.InRange p) (line : Nat) (mask : BitVec 8)
    (held : q.held = .readHeld line mask) : line < p.hostLines := by
  have := h.held
  rwa [held] at this

theorem State.GroupsInRange.addressesInRange {s : State} (h : s.GroupsInRange s.straps)
    (inReset : s.resetAsserted = true → s = (State.reset.withMemory s.memory).withPending s.pending) :
    s.AddressesInRange where
  remap := ⟨h.tables.frames, h.spares⟩
  cursors := h.tables.cursors
  queue := h.tables.queue
  migration := h.tables.migration
  tenure := h.tenure
  heldRead := h.port.heldRead
  heldWrite := h.port.heldWrite
  buffer _ _ _ inside := h.port.buffer _ inside
  pending := h.admission.pending
  slots := h.admission.slots
  anchor := h.engine.anchor
  rings := h.engine.rings
  patrol := h.patrol
  inReset := inReset

/-! ### The relation and its rule for each group of the state -/

/-- `s` stands within a happening that began in `o`, RESET not asserted: the pins, the straps and the queue of commands
are those of `o`, and every bound that `o` has, `s` has. -/
structure Upheld (o s : State) : Prop where
  live : o.resetAsserted = false
  resetAsserted : s.resetAsserted = o.resetAsserted
  straps : s.straps = o.straps
  pending : s.pending = o.pending
  memory : o.MemoryCanonical → s.MemoryCanonical
  shaped : o.Shaped → s.Shaped
  queues : o.QueuesBounded → s.QueuesBounded
  counters : o.CountersBounded → s.CountersBounded
  inRange : o.AddressesInRange → s.GroupsInRange o.straps

theorem Upheld.refl (s : State) (live : s.resetAsserted = false) : Upheld s s :=
  ⟨live, rfl, rfl, rfl, id, id, id, id, State.AddressesInRange.groups⟩

section
variable {o s : State} (h : Upheld o s)
include h

/-- New tables of the same sizes, the queue and the pointer bounded, every address in range. -/
theorem Upheld.withTables (x : Tables)
    (sizes : x.regions.length = s.tables.regions.length ∧ x.suspects.length = s.tables.suspects.length
      ∧ x.spares.length = s.tables.spares.length)
    (queue : s.tables.retireQueue.length ≤ 8 → x.retireQueue.length ≤ 8)
    (pointer : s.tables.evictionPointer < 32 → x.evictionPointer < 32)
    (inRange : o.AddressesInRange → s.tables.InRange o.straps → x.InRange o.straps) : Upheld o (s.withTables x) :=
  { h with
    shaped := fun ho => { h.shaped ho with
      regions := sizes.1.trans (h.shaped ho).regions
      suspects := sizes.2.1.trans (h.shaped ho).suspects
      spares := sizes.2.2.trans (h.shaped ho).spares }
    queues := fun ho => { h.queues ho with retire := queue (h.queues ho).retire }
    counters := fun ho => { h.counters ho with pointer := pointer (h.counters ho).pointer }
    inRange := fun ho => { h.inRange ho with
      spares := sizes.2.2.trans (h.inRange ho).spares
      tables := inRange ho (h.inRange ho).tables } }

/-- News with no more than 8 events. -/
theorem Upheld.withNews (x : News) (events : s.news.events.length ≤ 8 → x.events.length ≤ 8) :
    Upheld o (s.withNews x) :=
  { h with
    shaped := fun ho => { h.shaped ho with }
    queues := fun ho => { h.queues ho with events := events (h.queues ho).events }
    counters := fun ho => { h.counters ho with }
    inRange := fun ho => { h.inRange ho with } }

/-- Four slots, a bounded pending list, every address in range. -/
theorem Upheld.withAdmission (x : Admission) (slots : s.admission.slots.length = 4 → x.slots.length = 4)
    (list : o.QueuesBounded → x.pendingList.length + (if s.fetchInTenure then 1 else 0) ≤ 16)
    (inRange : o.AddressesInRange → s.admission.InRange o.straps → x.InRange o.straps) : Upheld o (s.withAdmission x) :=
  { h with
    shaped := fun ho => { h.shaped ho with slots := slots (h.shaped ho).slots }
    queues := fun ho => { h.queues ho with pending := list ho }
    counters := fun ho => { h.counters ho with }
    inRange := fun ho => { h.inRange ho with admission := inRange ho (h.inRange ho).admission } }

/-- Engine registers whose anchor request and rings lie in host memory. -/
theorem Upheld.withEngine (x : Engine) (inRange : o.AddressesInRange → s.engine.InRange o.straps → x.InRange o.straps) :
    Upheld o (s.withEngine x) :=
  { h with
    shaped := fun ho => { h.shaped ho with }
    queues := fun ho => { h.queues ho with }
    counters := fun ho => { h.counters ho with }
    inRange := fun ho => { h.inRange ho with engine := inRange ho (h.inRange ho).engine } }

/-- A patrol whose request, where it waits, is as before or for a host line. -/
theorem Upheld.withPatrol (x : Patrol) (line : ∀ l repair, x.phase = .waiting l repair →
    s.patrol.phase = .waiting l repair ∨ l < o.straps.hostLines) : Upheld o (s.withPatrol x) :=
  { h with
    shaped := fun ho => { h.shaped ho with }
    queues := fun ho => { h.queues ho with }
    counters := fun ho => { h.counters ho with }
    inRange := fun ho => { h.inRange ho with
      patrol := fun l repair waits => (line l repair waits).elim ((h.inRange ho).patrol l repair) id } }

/-- A port whose buffer is bounded and whose requests name host lines. -/
theorem Upheld.withPort (x : Port) (buffer : o.QueuesBounded → x.buffer.length ≤ 8)
    (inRange : o.AddressesInRange → s.port.InRange o.straps → x.InRange o.straps) : Upheld o (s.withPort x) :=
  { h with
    shaped := fun ho => { h.shaped ho with }
    queues := fun ho => { h.queues ho with buffer := buffer ho }
    counters := fun ho => { h.counters ho with }
    inRange := fun ho => { h.inRange ho with port := inRange ho (h.inRange ho).port } }

/-- Memory with its keys still rising. -/
theorem Upheld.withMemory (x : Memory) (canonical : s.memory.wf = true → x.wf = true) : Upheld o (s.withMemory x) :=
  { h with
    memory := fun ho => canonical (h.memory ho)
    shaped := fun ho => { h.shaped ho with }
    queues := fun ho => { h.queues ho with }
    counters := fun ho => { h.counters ho with }
    inRange := fun ho => { h.inRange ho with } }

theorem Upheld.withAttn (x : Bool) : Upheld o (s.withAttn x) :=
  { h with
    shaped := fun ho => { h.shaped ho with }
    queues := fun ho => { h.queues ho with }
    counters := fun ho => { h.counters ho with }
    inRange := fun ho => { h.inRange ho with } }

/-- The arbiter's records with the tenure in progress: a fetch has its place in the pending list kept, and the tenure's
line is a host line. -/
theorem Upheld.withArbiter (x : Arbiter)
    (guard : o.CountersBounded → x.guard ≤ 8) (lastSlot : o.CountersBounded → x.lastSlot ≤ 3)
    (fetch : o.QueuesBounded →
      s.admission.pendingList.length + (if (s.withArbiter x).fetchInTenure then 1 else 0) ≤ 16)
    (line : o.AddressesInRange → ∀ t, x.tenure = some t → t.line < o.straps.hostLines) :
    Upheld o (s.withArbiter x) :=
  { h with
    shaped := fun ho => { h.shaped ho with }
    queues := fun ho => { h.queues ho with pending := fetch ho }
    counters := fun ho => { h.counters ho with guard := guard ho, lastSlot := lastSlot ho }
    inRange := fun ho => { h.inRange ho with tenure := line ho } }

end

end Sys2Proof.Machine
end

section
/-!
What the tables and the accounting uphold: the operations on the tables keep their sizes, the queue's bound, the eviction
pointer's range and the frames named, and so do events, captures, detections and migration starts (R66 to R97, R167 to R175).
-/

namespace Sys2Proof.Machine

/-! ### What the operations on the tables keep -/

/-- `u` has the sizes of `t`, and each bound of `t`. -/
structure Tables.Follows (p : Straps) (t u : Tables) : Prop where
  regions : u.regions.length = t.regions.length
  suspects : u.suspects.length = t.suspects.length
  spares : u.spares.length = t.spares.length
  queue : t.retireQueue.length ≤ 8 → u.retireQueue.length ≤ 8
  pointer : t.evictionPointer < 32 → u.evictionPointer < 32
  inRange : t.InRange p → u.InRange p

namespace Tables.Follows
variable {p : Straps} {t u v : Tables}

theorem refl (p : Straps) (t : Tables) : t.Follows p t := ⟨rfl, rfl, rfl, id, id, id⟩

theorem trans (h : t.Follows p u) (k : u.Follows p v) : t.Follows p v :=
  ⟨k.regions.trans h.regions, k.suspects.trans h.suspects, k.spares.trans h.spares, k.queue ∘ h.queue,
    k.pointer ∘ h.pointer, k.inRange ∘ h.inRange⟩

theorem setSpare (h : t.Follows p u) (k : Nat) (st : SpareState) : t.Follows p (u.setSpare k st) :=
  h.trans ⟨rfl, rfl, List.length_set, id, id, fun h => { h with }⟩

theorem withSuspects (h : t.Follows p u) (l : List (Option SuspectEntry)) (same : l.length = u.suspects.length) :
    t.Follows p { u with suspects := l } :=
  h.trans ⟨rfl, same, rfl, id, id, fun h => { h with }⟩

theorem setRetire (h : t.Follows p u) (frame : Nat) (st : RetireState) : t.Follows p (u.setRetire frame st) :=
  h.withSuspects _ (List.length_map _)

theorem removeSuspect (h : t.Follows p u) (frame : Nat) : t.Follows p (u.removeSuspect frame) :=
  h.withSuspects _ (List.length_map _)

theorem decay (h : t.Follows p u) : t.Follows p u.decay := h.withSuspects _ (List.length_map _)

theorem withDefaults (h : t.Follows p u) (a : Attributes) : t.Follows p { u with defaults := a } :=
  h.trans ⟨rfl, rfl, rfl, id, id, fun h => { h with }⟩

theorem withRegions (h : t.Follows p u) (l : List (Option Region)) (same : l.length = u.regions.length) :
    t.Follows p { u with regions := l } :=
  h.trans ⟨same, rfl, rfl, id, id, fun h => { h with }⟩

/-- Requests leave the Retire Queue. -/
theorem withFewerRequests (h : t.Follows p u) (q : List RetireRequest) (fewer : q.Sublist u.retireQueue) :
    t.Follows p { u with retireQueue := q } :=
  h.trans ⟨rfl, rfl, rfl, fewer.length_le.trans, id, fun h =>
    { h with queue := fun r inside => h.queue r (fewer.subset inside) }⟩

theorem withMigration (h : t.Follows p u) (m : Option MigrationRecord)
    (frame : u.InRange p → ∀ x, m = some x → x.frame < p.hostFrames) : t.Follows p { u with migration := m } :=
  h.trans ⟨rfl, rfl, rfl, id, id, fun h => { h with migration := frame h }⟩

theorem removeEntry (h : t.Follows p u) (frame : Nat) : t.Follows p (u.removeEntry frame) :=
  h.trans ⟨rfl, rfl, rfl, id, id, fun h =>
    { h with
      frames := fun e inside => h.frames e (List.mem_of_mem_filter inside)
      cursors := fun e inside => h.cursors e (List.mem_of_mem_filter inside) }⟩

theorem putEntry (h : t.Follows p u) (frame : Nat) (st : RemapState) (inHost : u.InRange p → frame < p.hostFrames)
    (cursor : ∀ current target cursor, st = .migrating current target cursor → cursor < 64) :
    t.Follows p (u.putEntry frame st) :=
  h.trans ⟨rfl, rfl, rfl, id, id, fun h =>
    { h with
      frames := List.forall_mem_cons.2 ⟨inHost h, fun e inside => h.frames e (List.mem_of_mem_filter inside)⟩
      cursors := List.forall_mem_cons.2 ⟨cursor, fun e inside => h.cursors e (List.mem_of_mem_filter inside)⟩ }⟩

end Tables.Follows

section
variable (p : Straps) (t : Tables)

theorem nextPlace_lt (k : Nat) : nextPlace k < 32 := Nat.mod_lt _ (by decide)

/-- A detection entered keeps the table's size and the pointer's range (R91, R92). -/
theorem Tables.enter_follows (line word : Nat) (uncorrectable : Bool) : t.Follows p (t.enter line word uncorrectable) := by
  unfold Tables.enter
  split
  · refine ⟨rfl, List.length_modify .., rfl, id, fun h => ?_, fun h => { h with }⟩
    dsimp only
    split
    · exact nextPlace_lt _
    · exact h
  · exact ⟨rfl, List.length_set, rfl, id, fun _ => nextPlace_lt _, fun h => { h with }⟩

/-- The cut-over names the frame of the migration alone (R78). -/
theorem Tables.cutOver_follows (m : MigrationRecord) (frame : t.InRange p → m.frame < p.hostFrames) :
    t.Follows p (t.cutOver m) := by
  have put := ((Tables.Follows.refl p t).putEntry m.frame (.active m.target) frame (by simp)).setSpare m.target .assigned
  unfold Tables.cutOver Tables.failOld
  split
  · exact put
  · exact put.setSpare ..

/-- A migration reverted names its own frame alone (R63, R83, R84). -/
theorem Tables.revert_follows (m : MigrationRecord) (frame : t.InRange p → m.frame < p.hostFrames) :
    t.Follows p (t.revert m) := by
  have freed := (Tables.Follows.refl p t).setSpare m.target .free
  unfold Tables.revert
  dsimp only
  split
  · exact (freed.removeEntry _).withMigration _ (by simp)
  · exact (freed.putEntry _ _ (fun h => frame { h with }) (by simp)).withMigration _ (by simp)

/-- The tables after an engine reset (R47, R63, R84, R99). -/
theorem Tables.engineReset_follows : t.Follows p t.engineReset := by
  have cleared {u : Tables} (h : t.Follows p u) : t.Follows p { u with
      retireQueue := [], defaults := .clear, suspects := u.suspects.map (Option.map SuspectEntry.unpin) } :=
    ((h.withFewerRequests [] (List.nil_sublist _)).withDefaults _).withSuspects _ (List.length_map _)
  unfold Tables.engineReset
  refine cleared ?_
  split
  · exact .refl p t
  · rename_i m copying
    exact t.revert_follows p m fun h => h.migration m copying

end

/-- The cursor of a frame's entry stays below 64. -/
theorem Tables.InRange.cursorOf_lt {p : Straps} {t : Tables} (h : t.InRange p) (frame : Nat) : t.cursorOf frame < 64 := by
  unfold Tables.cursorOf
  split
  · rename_i found
    exact h.cursors _ (List.mem_of_find?_eq_some found) _ _ _ rfl
  · decide

/-! ### Accounting -/

section
variable {o s : State} (h : Upheld o s)
include h

/-- Tables that follow those of the state. -/
theorem Upheld.follow (x : Tables) (f : s.tables.Follows o.straps x) : Upheld o (s.withTables x) :=
  h.withTables x ⟨f.regions, f.suspects, f.spares⟩ f.queue f.pointer fun _ => f.inRange

/-- An event offered never overfills the list (R169). -/
theorem Upheld.offer (e : EventRecord) : Upheld o (s.offer e) := by
  unfold State.offer
  split
  · exact h
  · refine h.withNews _ fun bound => ?_
    unfold News.record News.countLost
    split
    · exact bound
    · exact bound
    · exact bound
    all_goals
      split
      · rename_i room
        simpa using room.1
      · exact bound

theorem Upheld.present (k : CaptureKind) (src : Source) (line word : Nat) : Upheld o (s.present k src line word) :=
  h.withNews _ id

/-- Completions join or leave the backlog. -/
theorem Upheld.withBacklog (l : List Completion) : Upheld o (s.withAdmission { s.admission with backlog := l }) :=
  h.withAdmission _ id (fun ho => (h.queues ho).pending) fun _ k => { k with }

theorem Upheld.complete (c : Completion) : Upheld o (s.complete c) := h.withBacklog _

theorem Upheld.completeOrigin (origin : Origin) (st : Status) (l c u p : Nat) (r : BitVec 28) :
    Upheld o (s.completeOrigin origin st l c u p r) := by
  cases origin
  · exact h
  · exact h.complete _

theorem Upheld.foldl_complete (l : List Completion) : Upheld o (l.foldl State.complete s) := by
  induction l generalizing s with
  | nil => exact h
  | cons c l ih => exact ih (h.complete c)

theorem Upheld.refuseStart (r : RetireRequest) : Upheld o (s.refuseStart r) :=
  ((h.offer _).completeOrigin ..).follow _ ((Tables.Follows.refl ..).setRetire ..)

/-- A migration starts for a host frame (R74). -/
theorem Upheld.beginMigration (r : RetireRequest) (t : Nat) (frame : o.AddressesInRange → r.frame < o.straps.hostFrames) :
    Upheld o (s.beginMigration r t) := by
  have started : Upheld o (s.withTables { (s.tables.setSpare t .target).putEntry r.frame
      (.migrating (s.tables.currentSpare r.frame) t 0) with
      migration := some ⟨r.frame, r.origin, r.cause, t, s.tables.currentSpare r.frame, 0, 0, 0, 0, .waiting⟩ }) := by
    by_cases ho : o.AddressesInRange
    · have inHost := frame ho
      exact h.follow _ ((((Tables.Follows.refl ..).setSpare t .target).putEntry _ _ (fun _ => inHost)
        (by rintro _ _ _ ⟨⟩; decide)).withMigration _ (by rintro _ _ ⟨⟩; exact inHost))
    · exact h.withTables _ ⟨rfl, rfl, List.length_set⟩ id id fun ho' => absurd ho' ho
  exact (started.offer _).follow _ ((Tables.Follows.refl ..).setRetire ..)

end

theorem startFrom_upheld {o : State} (l : List RetireRequest) {s : State} (h : Upheld o s) (queue : s.tables.retireQueue = l) :
    Upheld o (startFrom l s) := by
  induction l generalizing s with
  | nil => exact h
  | cons r rest ih =>
    have popped : Upheld o (s.withTables { s.tables with retireQueue := rest }) :=
      h.follow _ ((Tables.Follows.refl ..).withFewerRequests _ (queue ▸ List.sublist_cons_self r rest))
    unfold startFrom
    split
    · dsimp only
      split
      · exact ih (popped.refuseStart r) (by simp [(State.refuseStart_eq _ r).2.1])
      · exact popped.beginMigration r _ fun ho => (h.inRange ho).tables.queue r (by simp [queue])
    · exact h

section
variable {o s : State} (h : Upheld o s)
include h

/-- Migrations that start are for queued frames (R72 to R74). -/
theorem Upheld.startMigrations : Upheld o s.startMigrations := startFrom_upheld _ h rfl

/-- A request for a host frame joins a queue with room (R67, R68). -/
theorem Upheld.joinQueue (r : RetireRequest) (room : s.tables.retireQueue.length < 8)
    (frame : o.AddressesInRange → r.frame < o.straps.hostFrames) : Upheld o (s.joinQueue r) := by
  refine Upheld.startMigrations (h.withTables _ ⟨rfl, List.length_map _, rfl⟩ (fun _ => ?_) id fun ho k => ?_)
  · simpa using room
  · exact { k with queue := by simpa [or_imp, forall_and] using ⟨k.queue, frame ho⟩ }

theorem Upheld.offerAuto (f : Nat) (c : Cause) (frame : o.AddressesInRange → f < o.straps.hostFrames) :
    Upheld o (s.offerAuto f c) := by
  unfold State.offerAuto
  split
  · exact h
  · split
    · exact h.offer _
    · rename_i room
      exact h.joinQueue _ (Nat.lt_of_not_le room) frame

theorem Upheld.considerOffer (f : Nat) (frame : o.AddressesInRange → f < o.straps.hostFrames) :
    Upheld o (s.considerOffer f) := by
  unfold State.considerOffer
  split
  · exact h
  · split
    · exact h.offerAuto _ _ frame
    · exact h

end

/-- The frame of a host line is a host frame. -/
theorem Straps.frame_lt {p : Straps} {line : Nat} (inHost : line < p.hostLines) : line / 64 < p.hostFrames :=
  Nat.div_lt_of_lt_mul (by rwa [Straps.hostLines, Nat.mul_comm] at inHost)

section
variable {o s : State} (h : Upheld o s) {l : Nat} (line : o.AddressesInRange → l < o.straps.hostLines)
include h line

/-- A detection in a host line (R90 to R95). -/
theorem Upheld.enterDetection (w : Nat) (u : Bool) : Upheld o (s.enterDetection l w u) :=
  Upheld.considerOffer (h.follow _ (s.tables.enter_follows ..)) _ fun ho => Straps.frame_lt (line ho)

theorem Upheld.handCorrected (src : Source) (tag : Option Tag) (w : Nat) (b : BitPos) :
    Upheld o (s.handCorrected src tag l w b) := ((h.offer _).present ..).enterDetection line ..

theorem Upheld.handUncorrectable (src : Source) (tag : Option Tag) (w : Nat) :
    Upheld o (s.handUncorrectable src tag l w) := ((h.offer _).present ..).enterDetection line ..

theorem Upheld.handWord (src : Source) (tag : Option Tag) (r : WordReport) : Upheld o (State.handWord src tag l s r) := by
  unfold State.handWord
  split
  · exact h.handCorrected line ..
  · exact h.handUncorrectable line ..
  all_goals exact h

theorem Upheld.handReadWord (r : WordReport) : Upheld o (State.handReadWord l s r) := by
  unfold State.handReadWord
  split
  · exact (h.offer _).present ..
  all_goals exact h.handWord line ..

theorem Upheld.handDrainWord (r : WordReport) : Upheld o (State.handDrainWord l s r) := by
  unfold State.handDrainWord
  split
  · exact h.handCorrected line ..
  · exact ((h.offer _).present ..).enterDetection line ..
  · exact (h.offer _).present ..
  all_goals exact h

end

theorem Upheld.handCopyWord {o s : State} (h : Upheld o s) (tag : Option Tag) (l : Nat) (r : WordReport) :
    Upheld o (State.handCopyWord tag l s r) := by
  unfold State.handCopyWord
  split
  · exact (h.offer _).present ..
  · exact (h.offer _).present ..
  all_goals exact h

/-- What each word's hand-on upholds, the hand-on of a tenure's words does. -/
theorem Upheld.foldl {o s : State} (h : Upheld o s) {f : State → WordReport → State}
    (one : ∀ {t}, Upheld o t → ∀ r, Upheld o (f t r)) (rs : List WordReport) : Upheld o (rs.foldl f s) := by
  induction rs generalizing s with
  | nil => exact h
  | cons r rs ih => exact ih (one h r)

theorem Upheld.handWords {o s : State} (h : Upheld o s) {l : Nat} (line : o.AddressesInRange → l < o.straps.hostLines)
    (src : Source) (tag : Option Tag) (rs : List WordReport) : Upheld o (s.handWords src tag l rs) :=
  h.foldl (fun k r => k.handWord line src tag r) rs

end Sys2Proof.Machine
end

section
/-!
What the Migration Unit, the slots, issue, ABORT and the judgement of a record uphold (R63 to R88, R128 to R166).
-/

namespace Sys2Proof.Machine

/-! ### The channel's tenure -/

section
variable {o s : State} (h : Upheld o s)
include h

theorem Upheld.freeChannel : Upheld o s.freeChannel :=
  h.withArbiter _ (fun ho => (h.counters ho).guard) (fun ho => (h.counters ho).lastSlot)
    (fun ho => (Nat.le_add_right ..).trans (h.queues ho).pending) (by rintro _ _ ⟨⟩)

/-- Discarding reports keeps the tenure's line, and makes no tenure a fetch whose record will be judged (R18). -/
theorem Upheld.discardTenure (f : Work → Bool) : Upheld o (s.discardTenure f) := by
  refine h.withArbiter _ (fun ho => (h.counters ho).guard) (fun ho => (h.counters ho).lastSlot) (fun ho => ?_)
    fun ho t discarded => ?_
  · refine le_trans (Nat.add_le_add_left ?_ _) (h.queues ho).pending
    unfold State.fetchInTenure
    cases tenure : s.arbiter.tenure with
    | none => simp
    | some t => cases hf : f t.work <;> simp [hf]
  · obtain ⟨t', tenure, rfl⟩ := Option.map_eq_some_iff.1 discarded
    split
    all_goals exact (h.inRange ho).tenure t' tenure

end

/-! ### The Migration Unit -/

section
variable {o s : State} (h : Upheld o s)
include h

/-- The record of the migration in progress is replaced by one for the same frame. -/
theorem Upheld.withRecord (m m' : MigrationRecord) (copying : s.tables.migration = some m) (same : m'.frame = m.frame) :
    Upheld o (s.withTables { s.tables with migration := some m' }) :=
  h.follow _ ((Tables.Follows.refl ..).withMigration _ fun k x hx => by
    cases hx
    rw [same]
    exact k.migration m copying)

/-- The cursor advances below 63 only, so it stays below 64 (R76). -/
theorem Upheld.advanceCursor (m : MigrationRecord) (copying : s.tables.migration = some m)
    (below : s.tables.cursorOf m.frame < 63) : Upheld o (s.advanceCursor m) :=
  have inHost (k : s.tables.InRange o.straps) : m.frame < o.straps.hostFrames := k.migration m copying
  h.withTables _ ⟨rfl, rfl, rfl⟩ id id fun _ k =>
    (((Tables.Follows.refl ..).putEntry _ _ inHost (by rintro _ _ _ ⟨⟩; omega)).withMigration _
      (by rintro _ _ ⟨⟩; exact inHost k)).inRange k

theorem Upheld.cutOver (m : MigrationRecord) (copying : s.tables.migration = some m) : Upheld o (s.cutOver m) := by
  have cut : Upheld o (s.withTables (s.tables.cutOver m)) :=
    h.follow _ (s.tables.cutOver_follows _ m fun k => k.migration m copying)
  have spare : Upheld o ((s.withTables (s.tables.cutOver m)).offerSpareFailed m) := by
    unfold State.offerSpareFailed
    split
    · exact cut
    · exact cut.offer _
  have cleared := spare.follow _ ((Tables.Follows.refl ..).removeSuspect m.frame)
  exact Upheld.startMigrations
    (((cleared.offer _).completeOrigin ..).follow _ ((Tables.Follows.refl ..).withMigration none (by simp)))

/-- The end of a Copy Step (R76). -/
theorem Upheld.endCopyStep (m : MigrationRecord) (line : Nat) (rs : List WordReport)
    (copying : s.tables.migration = some m) : Upheld o (s.endCopyStep m line rs) := by
  have counted := (h.withRecord m (m.count rs) copying rfl).foldl
    (fun k r => k.handCopyWord (m.count rs).origin.tag? line r) rs
  have tables := (State.handCopyWords_tables (m.count rs).origin.tag? line rs
    (s.withTables { s.tables with migration := some (m.count rs) })).1
  unfold State.endCopyStep
  dsimp only
  split
  · rename_i below
    exact counted.advanceCursor _ (by rw [tables]; rfl) below
  · exact counted.cutOver _ (by rw [tables]; rfl)

theorem Upheld.abortMigration (m : MigrationRecord) (copying : s.tables.migration = some m) :
    Upheld o (s.abortMigration m) := by
  have reverted := h.follow _ (s.tables.revert_follows _ m fun k => k.migration m copying)
  exact (((reverted.discardTenure _).offer _).completeOrigin ..).follow _ ((Tables.Follows.refl ..).setRetire ..)

theorem Upheld.abortQueued (r : RetireRequest) : Upheld o (s.abortQueued r) := by
  have left : Upheld o (s.withTables { s.tables with
      retireQueue := s.tables.retireQueue.filter fun q => !(q.frame == r.frame) }) :=
    h.follow _ ((Tables.Follows.refl ..).withFewerRequests _ List.filter_sublist)
  exact ((left.offer _).completeOrigin ..).follow _ ((Tables.Follows.refl ..).setRetire ..)

end

/-! ### Slots -/

/-- What a place holds after one place is put. -/
theorem placeAt_set {α : Type} (l : List (Option α)) (k j : Nat) (x : Option α) (y : α)
    (found : placeAt (l.set k x) j = some y) : placeAt l j = some y ∨ x = some y := by
  unfold placeAt at found ⊢
  rw [List.getElem?_set] at found
  split at found
  · split at found
    · exact .inr found
    · cases found
  · exact .inl found

section
variable {o s : State} (h : Upheld o s)
include h

theorem Upheld.setSlot (k : Nat) (x : Option Slot)
    (inRange : o.AddressesInRange → ∀ sl, x = some sl → sl.InRange o.straps) : Upheld o (s.setSlot k x) :=
  h.withAdmission _ List.length_set.trans (fun ho => (h.queues ho).pending) fun ho a =>
    { a with slots := fun j sl found => (placeAt_set _ _ _ _ _ found).elim (a.slots j sl) (inRange ho sl) }

theorem Upheld.emptySlot (k : Nat) : Upheld o (s.setSlot k none) := h.setSlot k none (by rintro _ _ ⟨⟩)

/-- A slot keeps its command and its progress, whatever else of it changes. -/
theorem Upheld.updateSlot (k : Nat) (sl sl' : Slot) (occupied : s.slotAt k = some sl) (command : sl'.command = sl.command)
    (progress : sl'.progress = sl.progress ∨ sl'.progress < sl'.command.length) : Upheld o (s.setSlot k (some sl')) := by
  refine h.setSlot k _ fun ho x hx => ?_
  cases hx
  have before := (h.inRange ho).admission.slots k sl occupied
  refine ⟨?_, command ▸ before.2⟩
  rcases progress with same | below
  · rw [same, command]
    exact before.1
  · exact below

end

/-! ### Issue -/

/-- A slot command that R131 lets in has a line to begin with (R131). -/
theorem Slot.taken_inRange {p : Straps} (tag : Tag) (c : SlotCommand) (k : (Command.slot c).InRange p) :
    (Slot.taken tag c).InRange p := by
  refine ⟨?_, k.2⟩
  have fields := k.1
  cases c <;>
    simp only [Command.fieldsOk, lengthOk, Bool.and_eq_true, decide_eq_true_eq] at fields <;>
    simp only [Slot.taken, SlotCommand.length] <;> omega

section
variable {o s : State} (h : Upheld o s)
include h

theorem Upheld.issueRetire (tag : Tag) (f : Nat) (frame : o.AddressesInRange → f < o.straps.hostFrames) :
    Upheld o (s.issueRetire tag f) := by
  unfold State.issueRetire
  split
  · exact h.complete _
  · split
    · exact h.complete _
    · rename_i room
      exact h.joinQueue _ (Nat.lt_of_not_le room) frame

theorem Upheld.issueInstall (tag : Tag) (f k : Nat) (frame : o.AddressesInRange → f < o.straps.hostFrames) :
    Upheld o (s.issueInstall tag f k) := by
  unfold State.issueInstall
  split
  · exact h.complete _
  · refine Upheld.complete (h.withTables ((s.tables.putEntry f (.active k)).setSpare k .assigned)
      ⟨rfl, rfl, List.length_set⟩ id id fun ho t => ?_) _
    exact (((Tables.Follows.refl ..).putEntry _ _ (fun _ => frame ho) (by simp)).setSpare ..).inRange t

theorem Upheld.issueWithdraw (tag : Tag) (k : Nat) : Upheld o (s.issueWithdraw tag k) := by
  unfold State.issueWithdraw
  dsimp only
  split
  · exact (h.follow _ ((Tables.Follows.refl ..).setSpare ..)).complete _
  · exact h.complete _

theorem Upheld.issueClearSuspect (tag : Tag) (f : Nat) : Upheld o (s.issueClearSuspect tag f) := by
  unfold State.issueClearSuspect
  dsimp only
  split
  · exact h.complete _
  · split
    · exact h.complete _
    · exact (h.follow _ ((Tables.Follows.refl ..).removeSuspect _)).complete _

/-- SET_PATROL leaves no request waiting (R105). -/
theorem Upheld.issueSetPatrol (tag : Tag) (enable : Bool) (interval : BitVec 16) (restart : Bool) :
    Upheld o (s.issueSetPatrol tag enable interval restart) := by
  refine Upheld.complete (h.withPatrol _ fun l repair waits => ?_) _
  cases phase : s.patrol.phase <;> simp [Patrol.set, phase] at waits

theorem Upheld.occupySlot (tag : Tag) (c : SlotCommand) (inRange : o.AddressesInRange → (Command.slot c).InRange o.straps) :
    Upheld o (s.occupySlot tag c) := by
  unfold State.occupySlot
  split
  · exact h.setSlot _ _ fun ho sl taken => by
      cases taken
      exact Slot.taken_inRange tag c (inRange ho)
  · exact h

/-- What the head does when it issues, its fields and addresses being in range (R134, R137). -/
theorem Upheld.issueCommand (tag : Tag) (c : Command) (inRange : o.AddressesInRange → c.InRange o.straps) :
    Upheld o (s.issueCommand tag c) := by
  have addresses (ho : o.AddressesInRange) : c.addressesOk o.straps.hostFrames = true := (inRange ho).2
  cases c with
  | slot c => exact h.occupySlot tag c inRange
  | retire f => exact h.issueRetire tag f fun ho => of_decide_eq_true (addresses ho)
  | install f k => exact h.issueInstall tag f k fun ho => of_decide_eq_true (addresses ho)
  | withdrawSpare k => exact h.issueWithdraw tag k
  | query f => exact h.complete _
  | clearSuspect f => exact h.issueClearSuspect tag f
  | setRegion index valid base exponent attributes =>
    exact (h.follow _ ((Tables.Follows.refl ..).withRegions _ List.length_set)).complete _
  | setPatrol enable interval restart => exact h.issueSetPatrol tag enable interval restart
  | fence => exact h.complete _
  | abort target => exact h

/-- Commands leave the pending list. -/
theorem Upheld.withFewerPending (l : List PendingCommand) (fewer : l.Sublist s.admission.pendingList) :
    Upheld o (s.withAdmission { s.admission with pendingList := l }) :=
  h.withAdmission _ id (fun ho => (Nat.add_le_add_right fewer.length_le _).trans (h.queues ho).pending)
    fun _ a => { a with pending := fun q inside => a.pending q (fewer.subset inside) }

end

theorem issueFrom_upheld {o : State} (l : List PendingCommand) {s : State} (h : Upheld o s)
    (list : s.admission.pendingList = l) : Upheld o (issueFrom l s) := by
  induction l generalizing s with
  | nil => exact h
  | cons p rest ih =>
    unfold issueFrom
    split
    · refine ih (Upheld.issueCommand (h.withFewerPending rest (list ▸ List.sublist_cons_self p rest)) _ _ fun ho => ?_) ?_
      · exact (h.inRange ho).admission.pending p (by simp [list])
      · exact (State.issueCommand_slots ..).1
    · exact h

section
variable {o s : State} (h : Upheld o s)
include h

/-- The head judged for issue (R135), however many commands issue. -/
theorem Upheld.issueAll : Upheld o s.issueAll := issueFrom_upheld _ h rfl

theorem Upheld.endSlot (k : Nat) (sl : Slot) (st : Status) : Upheld o (s.endSlot k sl st) :=
  ((h.foldl_complete _).emptySlot k).issueAll

end

/-! ### The end of a slot's tenure -/

theorem Slot.advance_command (sl : Slot) (rs : List WordReport) : (sl.advance rs).command = sl.command := by
  unfold Slot.advance
  split <;> rfl

/-- The end of a slot's tenure (R139): a slot that goes on has a line left. -/
theorem Upheld.endSlotTenure {o s : State} (h : Upheld o s) (k : Nat) (sl : Slot) {line : Nat} (rs : List WordReport)
    (inHost : o.AddressesInRange → line < o.straps.hostLines) (occupied : s.slotAt k = some sl) :
    Upheld o (s.endSlotTenure k sl line rs) := by
  have handed := h.handWords inHost sl.command.source (some sl.tag) rs
  have still : (s.handWords sl.command.source (some sl.tag) line rs).slotAt k = some sl := by
    unfold State.slotAt
    rw [(State.handWords_accounted ..).slots]
    exact occupied
  have command : ((sl.count rs).advance rs).command = sl.command := Slot.advance_command _ rs
  unfold State.endSlotTenure
  dsimp only
  split
  · exact handed.endSlot ..
  · split
    · exact handed.endSlot ..
    · rename_i goesOn
      have left := Nat.lt_of_not_le goesOn
      split <;> exact handed.updateSlot k sl _ still command (.inr left)

/-! ### ABORT and records -/

theorem State.workingSlot_occupied (s : State) (target : Tag) (k : Nat) (sl : Slot)
    (found : s.workingSlot target = some (k, sl)) : s.slotAt k = some sl := by
  unfold State.workingSlot at found
  split at found
  · cases found
  · obtain ⟨x, occupied, same⟩ := Option.map_eq_some_iff.1 found
    cases same
    exact occupied

theorem State.workingRetire_ne_slot (s : State) (target : Tag) (k : Nat) (sl : Slot) :
    s.workingRetire target ≠ .slot k sl := by
  unfold State.workingRetire
  repeat' split
  all_goals simp

theorem State.workingRetire_migrating (s : State) (target : Tag) (m : MigrationRecord)
    (found : s.workingRetire target = .migrating m) : s.tables.migration = some m := by
  unfold State.workingRetire at found
  repeat' split at found
  all_goals simp_all

/-- An ABORT that finds its target in a slot finds that slot occupied (R132). -/
theorem State.abortTarget_slot (s : State) (target : Tag) (k : Nat) (sl : Slot)
    (found : s.abortTarget target = .slot k sl) : s.slotAt k = some sl := by
  unfold State.abortTarget at found
  split at found
  · cases found
  · split at found
    · rename_i working
      cases found
      exact s.workingSlot_occupied target k sl working
    · exact absurd found (s.workingRetire_ne_slot target k sl)

/-- An ABORT that finds its target migrating finds it in the Migration Unit (R132). -/
theorem State.abortTarget_migrating (s : State) (target : Tag) (m : MigrationRecord)
    (found : s.abortTarget target = .migrating m) : s.tables.migration = some m := by
  unfold State.abortTarget at found
  split at found
  · cases found
  · split at found
    · cases found
    · exact s.workingRetire_migrating target m found

/-- A record that R131's checks let through is in range. -/
theorem State.judge_inRange (s : State) (r : CommandRecord) (c : Command) (admitted : s.judge r = .inr c) :
    c.InRange s.straps := by
  unfold State.judge at admitted
  split at admitted
  · cases admitted
  · repeat' split at admitted
    all_goals cases admitted
    rename_i _ fields addresses
    exact ⟨by simpa using fields, by simpa using addresses⟩

section
variable {o s : State} (h : Upheld o s)
include h

/-- An ABORT carried out (R132, R133). -/
theorem Upheld.abort (tag target : Tag) : Upheld o (s.abort tag target) := by
  unfold State.abort
  split
  · exact (((h.withFewerPending _ List.filter_sublist).complete _).complete _).issueAll
  · rename_i k sl found
    have occupied := s.abortTarget_slot target k sl found
    split
    · exact h.updateSlot k sl _ occupied rfl (.inl rfl)
    · exact (((h.complete _).emptySlot k).complete _).issueAll
  · exact ((h.abortQueued _).complete _).issueAll
  · rename_i m found
    exact (((h.abortMigration m (s.abortTarget_migrating target m found)).complete _).startMigrations).issueAll
  · exact (h.complete _).issueAll

/-- An accepted command joins a pending list with room (R131, R134). -/
theorem Upheld.enlist (tag : Tag) (c : Command) (inRange : c.InRange o.straps)
    (room : o.QueuesBounded → s.admission.pendingList.length < 16) (noFetch : s.fetchInTenure = false) :
    Upheld o (s.enlist tag c) := by
  refine Upheld.issueAll (h.withAdmission _ id (fun ho => ?_) fun _ a => { a with pending := ?_ })
  · simpa [noFetch] using room ho
  · simpa [or_imp, forall_and] using ⟨a.pending, inRange⟩

/-- A record judged, and refused, carried out or admitted (R131). -/
theorem Upheld.takeRecord (r : CommandRecord) (room : o.QueuesBounded → s.admission.pendingList.length < 16)
    (noFetch : s.fetchInTenure = false) : Upheld o (s.takeRecord r) := by
  unfold State.takeRecord
  split
  · exact h.complete _
  · exact h.abort ..
  · rename_i c _ admitted
    exact h.enlist _ _ (h.straps ▸ s.judge_inRange r c admitted) room noFetch

end

end Sys2Proof.Machine
end

section
/-!
What Engine Control, the Host Port's buffer and the Patrol Unit uphold (R28 to R42, R100 to R127).
-/

namespace Sys2Proof.Machine

/-! ### Engine Control -/

theorem Slot.atHalt_command (sl : Slot) : sl.atHalt.command = sl.command := by
  unfold Slot.atHalt
  split <;> rfl

theorem Slot.atHalt_progress (sl : Slot) : sl.atHalt.progress = sl.progress := by
  unfold Slot.atHalt
  split <;> rfl

/-- What a place holds after every place is mapped. -/
theorem placeAt_map {α : Type} (l : List (Option α)) (f : α → α) (k : Nat) (y : α)
    (found : placeAt (l.map (Option.map f)) k = some y) : ∃ x, placeAt l k = some x ∧ y = f x := by
  unfold placeAt at found ⊢
  rw [List.getElem?_map] at found
  rcases here : l[k]? with _ | _ | x <;> rw [here] at found <;> cases found
  exact ⟨x, rfl, rfl⟩

theorem placeAt_replicate_none {α : Type} (n k : Nat) : placeAt (List.replicate n (none : Option α)) k = none := by
  unfold placeAt
  rw [List.getElem?_replicate]
  split <;> rfl

section
variable {o s : State} (h : Upheld o s)
include h

/-- Engine registers that leave the anchor request and the rings alone. -/
theorem Upheld.withRegisters (x : Engine) (anchor : x.anchorRequest = s.engine.anchorRequest)
    (rings : x.rings = s.engine.rings) : Upheld o (s.withEngine x) :=
  h.withEngine x fun _ k => ⟨anchor ▸ k.anchor, rings ▸ k.rings⟩

/-- A halt (R122, R123) withdraws requests and moves nothing else. -/
theorem Upheld.halt (c : HaltCause) : Upheld o (s.halt c) := by
  unfold State.halt
  split
  · have halted := h.withRegisters { s.engine with state := .halted, haltCause := c } rfl rfl
    refine Upheld.withAdmission (halted.withPatrol _ fun l repair waits => ?_) _ (List.length_map _).trans
      (fun ho => (h.queues ho).pending) fun _ a => { a with slots := fun k sl found => ?_ }
    · unfold Patrol.withdraw at waits
      split at waits
      · cases waits
      all_goals exact .inl waits
    · obtain ⟨sl, before, rfl⟩ := placeAt_map _ _ _ _ found
      unfold Slot.InRange
      rw [Slot.atHalt_command, Slot.atHalt_progress]
      exact a.slots k sl before
  · exact h

/-- An engine reset (R124). -/
theorem Upheld.engineReset : Upheld o s.engineReset := by
  have emptied := (h.discardTenure Work.ofEngine).withAdmission ⟨[], List.replicate 4 none, []⟩ (fun _ => rfl)
    (fun _ => by dsimp only; split <;> decide)
    fun _ _ => ⟨by simp, fun k sl found => by rw [placeAt_replicate_none] at found; cases found⟩
  have quiet := (emptied.withNews { s.news with events := [], overflow := none } fun _ => Nat.zero_le _).follow _
    (s.tables.engineReset_follows _)
  exact (quiet.withPatrol .reset (by rintro _ _ ⟨⟩)).withEngine _ fun _ _ => ⟨by rintro _ ⟨⟩, by rintro _ ⟨⟩⟩

/-- START asks for an anchor in host memory only (R111, R115). -/
theorem Upheld.startAction : Upheld o s.startAction := by
  unfold State.startAction
  split
  · have cleared := h.withRegisters
      { s.engine with startError := .none, sqTail := 0#16, cqHead := 0#16, eqHead := 0#16 } rfl rfl
    unfold State.startFromOff
    dsimp only
    split
    · exact cleared.withRegisters _ rfl rfl
    · rename_i inHost
      refine cleared.withEngine _ fun _ k => ⟨?_, k.rings⟩
      rintro _ ⟨⟩
      rw [← h.straps]
      exact Nat.lt_of_not_le inHost
  · exact h.withRegisters _ rfl rfl
  all_goals exact h

theorem Upheld.quiesceTest : Upheld o s.quiesceTest := by
  unfold State.quiesceTest
  split
  · exact h.withRegisters _ rfl rfl
  · exact h

theorem Upheld.quiesceAction : Upheld o s.quiesceAction := by
  unfold State.quiesceAction
  split
  · exact (h.withRegisters { s.engine with state := .quiescing } rfl rfl).quiesceTest
  all_goals exact h

/-- A CTRL write taking effect (R109). -/
theorem Upheld.writeCtrl (v : BitVec 32) : Upheld o (s.writeCtrl v) := by
  have enabled := h.withRegisters { s.engine with enables := enablesOfValue v } rfl rfl
  unfold State.writeCtrl
  dsimp only
  split
  · exact enabled.engineReset
  · split
    · exact enabled.startAction
    · split
      · exact enabled.quiesceAction
      · exact enabled

theorem Upheld.writeSqTail (v : BitVec 16) : Upheld o (s.writeSqTail v) := by
  unfold State.writeSqTail
  split
  · split
    · exact h.withRegisters _ rfl rfl
    · exact h.halt _
  · exact h.withRegisters _ rfl rfl

theorem Upheld.writeCqHead (v : BitVec 16) : Upheld o (s.writeCqHead v) := by
  unfold State.writeCqHead
  split
  · split
    · exact h.withRegisters _ rfl rfl
    · exact h.halt _
  · exact h.withRegisters _ rfl rfl

theorem Upheld.writeEqHead (v : BitVec 16) : Upheld o (s.writeEqHead v) := by
  unfold State.writeEqHead
  split
  · split
    · exact h.withRegisters _ rfl rfl
    · exact h.halt _
  · exact h.withRegisters _ rfl rfl

/-- A posted register write delivered to Engine Control (R41). -/
theorem Upheld.deliver (target : PostedRegister) (v : BitVec 32) : Upheld o (s.deliver target v) := by
  cases target
  · exact h.writeCtrl v
  · exact h.writeSqTail _

end

/-- The rings of an anchor that passes every check lie in host memory (R113). -/
theorem AnchorRecord.validate_rings (a : AnchorRecord) (p : Straps) (valid : a.validate p.hostFrames = .none) :
    Rings.InRange p ⟨a.sq, a.cq, a.eq, 0, 0, 0, true, true⟩ := by
  have placement : a.placementOk p.hostFrames = true := by
    by_contra misplaced
    unfold AnchorRecord.validate at valid
    rw [if_pos (Bool.eq_false_of_not_eq_true misplaced)] at valid
    repeat' split at valid
    all_goals cases valid
  simp only [AnchorRecord.placementOk, Ring.placed, Bool.and_eq_true, decide_eq_true_eq] at placement
  obtain ⟨⟨⟨⟨⟨⟨_, sq⟩, _, cq⟩, _, eq⟩, _⟩, _⟩, _⟩ := placement
  exact ⟨⟨sq, Nat.two_pow_pos _⟩, ⟨cq, Nat.two_pow_pos _⟩, eq, Nat.two_pow_pos _⟩

section
variable {o s : State} (h : Upheld o s)
include h

/-- An accepted anchor gives the engine rings in host memory (R114). -/
theorem Upheld.acceptAnchor (a : AnchorRecord) (valid : a.validate s.straps.hostFrames = .none) :
    Upheld o (s.acceptAnchor a) := by
  have accepted : Upheld o ((s.withTables { s.tables with defaults := a.attributes }).modifyEngine fun e => e.accept a) :=
    (h.follow _ ((Tables.Follows.refl ..).withDefaults a.attributes)).withEngine _ fun _ k => ⟨k.anchor, by
      rintro _ ⟨⟩
      exact a.validate_rings _ (h.straps ▸ valid)⟩
  unfold State.acceptAnchor State.judgeIndices
  split
  · exact accepted.halt _
  · split
    · exact accepted.halt _
    · split
      · exact accepted.halt _
      · exact accepted

theorem Upheld.failStart (e : StartError) : Upheld o (s.failStart e) := h.withRegisters _ rfl rfl

/-- The end of the anchor read (R112 to R114). -/
theorem Upheld.endAnchorRead {line : Nat} (rs : List WordReport) (inHost : o.AddressesInRange → line < o.straps.hostLines) :
    Upheld o (s.endAnchorRead line rs) := by
  have handed := h.handWords inHost .fetch none rs
  unfold State.endAnchorRead
  dsimp only
  split
  · exact handed.failStart _
  · split
    · rename_i valid
      exact handed.acceptAnchor _ valid
    · exact handed.failStart _

/-- The fetch index stays below N (R118). -/
theorem Upheld.advanceFetch : Upheld o s.advanceFetch :=
  h.withEngine _ fun _ k => ⟨k.anchor, fun r advanced => by
    obtain ⟨r', before, rfl⟩ := Option.map_eq_some_iff.1 advanced
    obtain ⟨sq, others⟩ := k.rings r' before
    exact ⟨⟨sq.1, Nat.mod_lt _ (Nat.two_pow_pos _)⟩, others⟩⟩

/-- The end of a fetch (R130), its record's place in the pending list kept. -/
theorem Upheld.endFetch {line : Nat} (rs : List WordReport) (inHost : o.AddressesInRange → line < o.straps.hostLines)
    (room : o.QueuesBounded → s.admission.pendingList.length < 16) (noFetch : s.fetchInTenure = false) :
    Upheld o (s.endFetch line rs) := by
  have handed := h.advanceFetch.handWords inHost .fetch none rs
  have accounted := State.handWords_accounted s.advanceFetch .fetch none line rs
  unfold State.endFetch
  dsimp only
  split
  · split
    · exact handed.halt _
    · refine handed.takeRecord _ (fun ho => ?_) ?_
      · rw [accounted.pendingList]
        exact room ho
      · unfold State.fetchInTenure
        rw [accounted.arbiter]
        exact noFetch
  · exact handed

end

/-! ### The Host Port -/

section
variable {o s : State} (h : Upheld o s)
include h

theorem Upheld.respond (code : ResponseCode) (words : List (Nat × DataWord)) : Upheld o (s.respond code words) :=
  h.withPort _ (fun ho => (h.queues ho).buffer) fun _ k => { k with }

theorem Upheld.hold (r : HeldRequest) (inRange : o.AddressesInRange → r.InRange o.straps) : Upheld o (s.hold r) :=
  h.withPort _ (fun ho => (h.queues ho).buffer) fun ho k => { k with held := inRange ho }

/-- Entries leave the buffer. -/
theorem Upheld.setBuffer (b : List PostEntry) (fewer : b.Sublist s.port.buffer) : Upheld o (s.setBuffer b) :=
  h.withPort _ (fun ho => fewer.length_le.trans (h.queues ho).buffer) fun _ k =>
    { k with buffer := fun e inside => k.buffer e (fewer.subset inside) }

end

theorem deliverFrom_upheld {o : State} (l : List PostEntry) {s : State} (h : Upheld o s) (buffer : s.port.buffer = l) :
    Upheld o (deliverFrom l s) := by
  induction l generalizing s with
  | nil => exact h
  | cons e rest ih =>
    cases e with
    | memory line mask data => exact h
    | register target v =>
      have left := h.setBuffer rest (buffer ▸ List.sublist_cons_self _ rest)
      exact ih (left.deliver target v) (congrArg Port.buffer (State.deliver_port ..))

/-- Delivering the register entries at the head lengthens no buffer (R41). -/
theorem deliverFrom_buffer_length (l : List PostEntry) (s : State) (buffer : s.port.buffer = l) :
    (deliverFrom l s).port.buffer.length ≤ l.length := by
  induction l generalizing s with
  | nil => exact (congrArg List.length buffer).le
  | cons e rest ih =>
    cases e with
    | memory line mask data => exact (congrArg List.length buffer).le
    | register target v =>
      exact (ih _ (congrArg Port.buffer (State.deliver_port (s.setBuffer rest) target v))).trans (Nat.le_succ _)

section
variable {o s : State} (h : Upheld o s)
include h

theorem Upheld.deliverHeads : Upheld o s.deliverHeads := deliverFrom_upheld _ h rfl

/-- An entry for host memory joins a buffer with room (R34, R41). -/
theorem Upheld.joinBuffer (e : PostEntry) (room : o.QueuesBounded → s.port.buffer.length < 8)
    (inRange : o.AddressesInRange → e.InRange o.straps) : Upheld o (s.joinBuffer e) := by
  refine Upheld.deliverHeads (h.withPort _ (fun ho => ?_) fun ho k => { k with buffer := ?_ })
  · simpa using room ho
  · simpa [or_imp, forall_and] using ⟨k.buffer, inRange ho⟩

theorem Upheld.acceptEntry (e : PostEntry) (room : o.QueuesBounded → s.port.buffer.length < 8)
    (inRange : o.AddressesInRange → e.InRange o.straps) : Upheld o (s.acceptEntry e) := by
  unfold State.acceptEntry
  split
  · split
    · exact (h.respond ..).offer _
    · exact (h.respond ..).joinBuffer _ room inRange
  · exact (h.respond ..).joinBuffer _ room inRange

theorem Upheld.presentWrite (e : PostEntry) (inRange : o.AddressesInRange → e.InRange o.straps) :
    Upheld o (s.presentWrite e) := by
  unfold State.presentWrite
  split
  · rename_i room
    exact h.acceptEntry e (fun _ => room) inRange
  · exact h.hold _ inRange

theorem Upheld.acceptHeld (room : o.QueuesBounded → s.port.buffer.length < 8) : Upheld o s.acceptHeld := by
  unfold State.acceptHeld
  split
  · rename_i e held
    refine (h.hold .idle fun _ => trivial).acceptEntry e room fun ho => ?_
    have inRange := (h.inRange ho).port.held
    rwa [held] at inRange
  all_goals exact h

end

/-! ### The Patrol Unit -/

/-- The skip ends on a host line (R102). -/
theorem Tables.skip_lt (t : Tables) (hostLines n line found : Nat) (h : t.skip hostLines n line = some found) :
    found < hostLines := by
  induction n generalizing line with
  | zero => cases h
  | succ n ih =>
    unfold Tables.skip at h
    split at h
    · cases h
    · rename_i inHost
      split at h
      · cases h
        exact Nat.lt_of_not_le inHost
      · split at h
        · exact ih _ h
        · cases h

section
variable {o s : State} (h : Upheld o s)
include h

theorem Upheld.endPass : Upheld o s.endPass :=
  ((h.offer { kind := .patrolPass, source := .patrol }).follow _ (Tables.Follows.refl ..).decay).withPatrol _
    fun _ _ waits => .inl waits

theorem Upheld.expire : Upheld o s.expire := by
  unfold State.expire
  split
  · rename_i line next
    refine h.withPatrol _ fun l repair waits => ?_
    cases waits
    exact .inr (h.straps ▸ s.tables.skip_lt _ _ _ _ next)
  · exact h.endPass

theorem Upheld.patrolMovesOn (line : Nat) : Upheld o (s.patrolMovesOn line) := by
  unfold State.patrolMovesOn
  split
  · exact h.withPatrol _ (by rintro _ _ ⟨⟩)
  · split
    · exact h.withPatrol _ (by rintro _ _ ⟨⟩)
    · exact (h.withPatrol { s.patrol with phase := .idle } (by rintro _ _ ⟨⟩)).endPass

end

end Sys2Proof.Machine
end

section
/-!
What the arbiter's grants uphold (R19 to R26): the choice keeps the guard count and the last slot in range, and every
tenure begins on a host line.
-/

namespace Sys2Proof.Machine

/-! ### The arbiter's choice -/

/-- What waits behind PORT, in the order of R23. -/
def State.waitingBehindPort (s : State) : List Requester :=
  waitingIf (s.tables.migration.any fun m => m.step == .waiting) .migration ++ waitingIf s.ringWork.isSome .ring
    ++ ((slotOrder s.arbiter.lastSlot).filter s.slotWaiting).map .slot ++ waitingIf s.patrol.isWaiting .patrol

theorem State.waiting_eq (s : State) : s.waiting = waitingIf s.port.work.isSome .port ++ s.waitingBehindPort := by
  simp [State.waiting, State.waitingBehindPort]

theorem mem_waitingIf {b : Bool} {r q : Requester} : q ∈ waitingIf b r ↔ b = true ∧ q = r := by
  cases b <;> simp [waitingIf]

theorem State.port_notMem_waitingBehindPort (s : State) : Requester.port ∉ s.waitingBehindPort := by
  simp [State.waitingBehindPort, mem_waitingIf]

/-- Only slots 0 to 3 wait (R19). -/
theorem State.slot_lt_of_waiting (s : State) (k : Nat) (waits : Requester.slot k ∈ s.waiting) : k < 4 := by
  simp only [State.waiting_eq, State.waitingBehindPort, List.mem_append, mem_waitingIf, List.mem_map, List.mem_filter,
    slotOrder, reduceCtorEq, and_false, false_or, or_false, Requester.slot.injEq, exists_eq_right] at waits
  obtain ⟨⟨i, _, rfl⟩, _⟩ := waits
  exact Nat.mod_lt _ (by decide)

theorem mem_of_chooseFrom {guard : Nat} {l : List Requester} {r : Requester} (chosen : chooseFrom guard l = some r) :
    r ∈ l := by
  unfold chooseFrom at chosen
  split at chosen
  · cases chosen
  · split at chosen <;> cases chosen <;> simp
  · cases chosen
    simp

/-- At a guard count of 8 PORT is granted only where nothing else waits (R24). -/
theorem State.alone_of_port_chosen (s : State) (chosen : chooseFrom s.arbiter.guard s.waiting = some .port)
    (others : 1 < s.waiting.length) : s.arbiter.guard < 8 := by
  by_contra full
  have notPort := s.port_notMem_waitingBehindPort
  rw [State.waiting_eq] at chosen others
  cases waits : s.port.work.isSome with
  | false =>
    rw [waits] at chosen
    exact notPort (mem_of_chooseFrom chosen)
  | true =>
    rw [waits] at chosen others
    cases behind : s.waitingBehindPort with
    | nil => simp [waitingIf, behind] at others
    | cons r rest =>
      rw [behind] at notPort chosen
      have second : chooseFrom s.arbiter.guard (.port :: r :: rest) = some r := if_pos (Nat.le_of_not_lt full)
      have port : r = .port := Option.some.inj (second.symm.trans chosen)
      exact notPort (port ▸ List.mem_cons_self ..)

section
variable {o s : State} (h : Upheld o s)
include h

/-- The guard count and the last slot after a grant stay in their ranges (R23, R24). -/
theorem Upheld.noteGrant (r : Requester) (chosen : chooseFrom s.arbiter.guard s.waiting = some r) :
    Upheld o (s.noteGrant r) := by
  refine h.withArbiter _ (fun ho => ?_) (fun ho => ?_) (fun ho => (h.queues ho).pending) fun ho => (h.inRange ho).tenure
  · cases r with
    | port =>
      simp only [guardAfter]
      split
      · rename_i others
        exact s.alone_of_port_chosen chosen others
      · exact Nat.zero_le _
    | migration | ring | slot _ | patrol => exact Nat.zero_le _
  · cases r with
    | slot k => exact Nat.le_of_lt_succ (s.slot_lt_of_waiting k (mem_of_chooseFrom chosen))
    | port | migration | ring | patrol => exact (h.counters ho).lastSlot

/-! ### The grants -/

/-- A tenure begins for a host line; a fetch has its place in the pending list kept (R17, R129). -/
theorem Upheld.beginTenure (work : Work) (line : Nat) (e : TenureEffect)
    (room : work = .fetch → s.admission.pendingList.length < 16)
    (inHost : o.AddressesInRange → line < o.straps.hostLines) : Upheld o (s.beginTenure work line e) := by
  refine (h.withMemory _ (s.memory.wf_writeAll e.writes)).withArbiter _ (fun ho => (h.counters ho).guard)
    (fun ho => (h.counters ho).lastSlot) (fun ho => ?_) fun ho t began => ?_
  · have bound := (Nat.le_add_right ..).trans (h.queues ho).pending
    by_cases fetch : work = .fetch
    · have := room fetch
      dsimp only [State.withMemory_admission]
      split <;> omega
    · simpa [State.fetchInTenure, fetch] using bound
  · cases began
    exact inHost ho

end

/-- Where the work of PORT comes from: the read it holds, or an entry in its buffer (R31, R36). -/
def PortWork.From (q : Port) : PortWork → Prop
  | .read line mask => q.held = .readHeld line mask
  | .drain line mask data => .memory line mask data ∈ q.buffer

theorem Port.drainWork_from (q : Port) (w : PortWork) (drain : q.drainWork = some w) : w.From q := by
  unfold Port.drainWork at drain
  split at drain
  · rename_i buffer
    cases drain
    simp [PortWork.From, buffer]
  all_goals cases drain

theorem Port.work_from (q : Port) (w : PortWork) (presented : q.work = some w) : w.From q := by
  unfold Port.work at presented
  split at presented
  · rename_i held
    split at presented
    · exact q.drainWork_from w presented
    · split at presented
      · cases presented
        exact held
      · exact q.drainWork_from w presented
  all_goals exact q.drainWork_from w presented

/-- Where the work of RING comes from: the anchor read asked for; or, the engine having rings, the head completion, the head
event, or a fetch that is ready (R21). -/
def RingWork.From (s : State) : RingWork → Prop
  | .anchor line => s.engine.anchorRequest = some line
  | .completion r c rest => s.engine.rings = some r ∧ s.admission.backlog = c :: rest
  | .event r e rest => s.engine.rings = some r ∧ s.news.events = e :: rest
  | .fetch r => s.engine.rings = some r ∧ s.fetchReady r = true

theorem State.postWork_from (s : State) (r : Rings) (rings : s.engine.rings = some r) (w : RingWork)
    (posted : s.postWork r = some w) : w.From s := by
  unfold State.postWork State.eventWork State.fetchWork at posted
  repeat' split at posted
  all_goals cases posted
  all_goals exact ⟨rings, by assumption⟩

theorem State.ringWork_from (s : State) (w : RingWork) (presented : s.ringWork = some w) : w.From s := by
  have posts (presented : s.engine.rings.bind s.postWork = some w) : w.From s := by
    obtain ⟨r, rings, posted⟩ := Option.bind_eq_some_iff.1 presented
    exact s.postWork_from r rings w posted
  unfold State.ringWork at presented
  split at presented
  · obtain ⟨line, request, rfl⟩ := Option.map_eq_some_iff.1 presented
    exact request
  · exact posts presented
  · exact posts presented
  · exact posts presented
  all_goals cases presented

/-- A record of a ring in host memory lies in a host line (R113, R117): `perLine` records fill a line. -/
theorem Ring.recordLine_lt {r : Ring} {p : Straps} {size index : Nat} (perLine : Nat) (fills : size * perLine = 64)
    (held : r.holds size p.hostFrames index) : r.base / 64 + index / perLine < p.hostLines := by
  obtain ⟨placed, inside⟩ := held
  have some64 : 0 < perLine := Nat.pos_of_ne_zero (by rintro rfl; simp at fills)
  have recordEnd : (index + 1) * size ≤ 2 ^ r.exponent * size := Nat.mul_le_mul_right _ inside
  have index_le : index / perLine * 64 ≤ index * size := by
    rw [← fills, ← Nat.mul_assoc, Nat.mul_right_comm]
    exact Nat.mul_le_mul_right _ (Nat.div_mul_le_self ..)
  have sizePos : 0 < size := Nat.pos_of_ne_zero (by rintro rfl; simp at fills)
  have base_le := Nat.div_mul_le_self r.base 64
  unfold Straps.hostLines
  rw [Nat.add_mul] at recordEnd
  omega

theorem Ring.next_lt (r : Ring) (index : Nat) : r.next index < 2 ^ r.exponent := Nat.mod_lt _ (Nat.two_pow_pos _)

/-- The line a slot asks a tenure for is a host line (R131, R145). -/
theorem Slot.InRange.requestLine_lt {p : Straps} {sl : Slot} (h : sl.InRange p) : sl.request.line < p.hostLines := by
  obtain ⟨left, addresses⟩ := h
  unfold Straps.hostLines Slot.request
  cases command : sl.command <;>
    simp only [command, SlotCommand.length, Command.addressesOk, Bool.and_eq_true, decide_eq_true_eq] at left addresses
  case copy =>
    cases sl.heldLine <;> simp only [SlotRequest.line] <;> omega
  all_goals
    simp only [SlotRequest.line]
    omega

section
variable {o s : State} (h : Upheld o s)
include h

theorem Upheld.grantPort : Upheld o s.grantPort := by
  unfold State.grantPort
  split
  · rename_i line mask presented
    exact h.beginTenure _ _ _ (by rintro ⟨⟩) fun ho =>
      (h.inRange ho).port.heldRead line mask (s.port.work_from _ presented)
  · rename_i presented
    exact h.beginTenure _ _ _ (by rintro ⟨⟩) fun ho => (h.inRange ho).port.buffer _ (s.port.work_from _ presented)
  · exact h

theorem Upheld.grantMigration : Upheld o s.grantMigration := by
  unfold State.grantMigration
  split
  · rename_i m copying
    refine Upheld.withRecord (h.beginTenure _ _ _ (by rintro ⟨⟩) fun ho => ?_) m _ copying rfl
    have tables := (h.inRange ho).tables
    have frame := tables.migration m copying
    have cursor := tables.cursorOf_lt m.frame
    unfold Straps.hostLines
    omega
  · exact h

/-- The rings are replaced by others in host memory. -/
theorem Upheld.withRings (r r' : Rings) (rings : s.engine.rings = some r)
    (inRange : r.InRange o.straps → r'.InRange o.straps) :
    Upheld o (s.modifyEngine fun e => { e with rings := some r' }) :=
  h.withEngine _ fun _ k => ⟨k.anchor, by
    rintro _ ⟨⟩
    exact inRange (k.rings r rings)⟩

/-- A completion post (R119, R141). -/
theorem Upheld.postCompletion (r : Rings) (c : Completion) (rest : List Completion) (rings : s.engine.rings = some r) :
    Upheld o (s.postCompletion r c rest) := by
  refine Upheld.withRings (Upheld.withBacklog (h.beginTenure _ _ _ (by rintro ⟨⟩) fun ho => ?_) rest) r _ rings ?_
  · exact Ring.recordLine_lt 4 rfl ((h.inRange ho).engine.rings r rings).2.1
  · exact fun ⟨sq, cq, eq⟩ => ⟨sq, ⟨cq.1, r.cq.next_lt _⟩, eq⟩

/-- An event post frees the place that the OVERFLOW record takes (R119, R171). -/
theorem Upheld.postEvent (r : Rings) (e : EventRecord) (rest : List EventRecord) (rings : s.engine.rings = some r)
    (events : s.news.events = e :: rest) : Upheld o (s.postEvent r e rest) := by
  refine Upheld.withRings (Upheld.withNews (h.beginTenure _ _ _ (by rintro ⟨⟩) fun ho => ?_) (s.news.afterPost rest)
    fun bound => ?_) r _ rings ?_
  · exact Ring.recordLine_lt 2 rfl ((h.inRange ho).engine.rings r rings).2.2
  · replace bound : s.news.events.length ≤ 8 := bound
    rw [events, List.length_cons] at bound
    unfold News.afterPost
    split
    · exact Nat.le_of_succ_le bound
    · simpa using bound
  · exact fun ⟨sq, cq, eq⟩ => ⟨sq, cq, eq.1, r.eq.next_lt _⟩

theorem Upheld.grantRing : Upheld o s.grantRing := by
  unfold State.grantRing
  split
  · rename_i line presented
    have asked := s.ringWork_from _ presented
    exact Upheld.withEngine (h.beginTenure _ _ _ (by rintro ⟨⟩) fun ho => (h.inRange ho).engine.anchor line asked) _
      fun _ k => ⟨by rintro _ ⟨⟩, k.rings⟩
  · rename_i r c rest presented
    exact h.postCompletion r c rest (s.ringWork_from _ presented).1
  · rename_i r e rest presented
    obtain ⟨rings, events⟩ := s.ringWork_from _ presented
    exact h.postEvent r e rest rings events
  · rename_i r presented
    obtain ⟨rings, ready⟩ := s.ringWork_from _ presented
    simp only [State.fetchReady, Bool.and_eq_true, decide_eq_true_eq] at ready
    obtain ⟨⟨⟨_, room⟩, _⟩, _⟩ := ready
    refine h.beginTenure _ _ _ (fun _ => room) fun ho => ?_
    simpa using Ring.recordLine_lt 1 rfl ((h.inRange ho).engine.rings r rings).1
  · exact h

theorem Upheld.grantSlot (k : Nat) : Upheld o (s.grantSlot k) := by
  unfold State.grantSlot
  split
  · rename_i sl occupied
    exact Upheld.updateSlot (h.beginTenure _ _ _ (by rintro ⟨⟩) fun ho =>
      ((h.inRange ho).admission.slots k sl occupied).requestLine_lt) k sl _ occupied rfl (.inl rfl)
  · exact h

theorem Upheld.grantPatrol : Upheld o s.grantPatrol := by
  unfold State.grantPatrol
  split
  · rename_i line repair waits
    exact Upheld.withPatrol (h.beginTenure _ _ _ (by rintro ⟨⟩) fun ho => (h.inRange ho).patrol line repair waits) _
      (by rintro _ _ ⟨⟩)
  all_goals exact h

/-- A grant (R22, R25). -/
theorem Upheld.grant (r : Requester) : Upheld o (s.grant r) := by
  cases r with
  | port => exact h.grantPort
  | migration => exact h.grantMigration
  | ring => exact h.grantRing
  | slot k => exact h.grantSlot k
  | patrol => exact h.grantPatrol

end

theorem arbitrateFrom_upheld {o : State} (n : Nat) {s : State} (h : Upheld o s) : Upheld o (arbitrateFrom n s) := by
  induction n generalizing s with
  | zero => exact h
  | succ n ih =>
    unfold arbitrateFrom
    split
    · exact h
    · split
      · exact h
      · rename_i r chosen
        have noted := h.noteGrant r chosen
        split
        · exact ih (noted.endSlot ..)
        · exact noted.grant r

/-- The end of a happening: the grants (R22), the QUIESCED test (R116), ATTN (R126). -/
theorem Upheld.conclude {o s : State} (h : Upheld o s) : Upheld o s.conclude :=
  ((arbitrateFrom_upheld _ h).quiesceTest).withAttn _

end Sys2Proof.Machine
end

section
/-!
What every command upholds: the bodies of the commands, the ends of tenures, records and expiries, and the one theorem
about `exec` that the statements about steps use.
-/

namespace Sys2Proof.Machine

/-! ### The head of the Write Post Buffer -/

/-- Whether the head is a register entry is a matter of the buffer alone. -/
theorem Port.headIsMemory_congr {p q : Port} (buffer : q.buffer = p.buffer) (h : p.headIsMemory) : q.headIsMemory := by
  unfold Port.headIsMemory at h ⊢
  rwa [buffer]

theorem State.port_of_kept {s t : State} (h : t.kept = s.kept) : t.port = s.port := congrArg Kept.port h

theorem State.port_of_outside {s t : State} (h : t.outside = s.outside) : t.port = s.port := congrArg Outside.port h

/-- Register entries are delivered until none is the head (R41). -/
theorem deliverFrom_headIsMemory (l : List PostEntry) (s : State) (buffer : s.port.buffer = l) :
    (deliverFrom l s).port.headIsMemory := by
  induction l generalizing s with
  | nil => simp [deliverFrom, Port.headIsMemory, buffer]
  | cons e rest ih =>
    cases e with
    | memory line mask data => simp [deliverFrom, Port.headIsMemory, buffer]
    | register target v => exact ih _ (congrArg Port.buffer (State.deliver_port (s.setBuffer rest) target v))

theorem State.deliverHeads_headIsMemory (s : State) : s.deliverHeads.port.headIsMemory :=
  deliverFrom_headIsMemory _ s rfl

section
variable {s : State} (h : s.port.headIsMemory)
include h

theorem State.acceptEntry_headIsMemory (e : PostEntry) : (s.acceptEntry e).port.headIsMemory := by
  unfold State.acceptEntry
  split
  · split
    · rw [State.port_of_kept (State.offer_kept ..)]
      exact h
    · exact State.deliverHeads_headIsMemory _
  · exact State.deliverHeads_headIsMemory _

theorem State.presentWrite_headIsMemory (e : PostEntry) : (s.presentWrite e).port.headIsMemory := by
  unfold State.presentWrite
  split
  · exact State.acceptEntry_headIsMemory h e
  · exact h

theorem State.acceptHeld_headIsMemory : s.acceptHeld.port.headIsMemory := by
  unfold State.acceptHeld
  split
  · exact State.acceptEntry_headIsMemory (s := s.hold .idle) h _
  all_goals exact h

end

/-! ### What any command but a reset or a disturbance comes to -/

/-- `t` ends a happening that began in `s`. -/
structure Settled (s t : State) : Prop where
  upheld : Upheld s t
  head : s.port.headIsMemory → t.port.headIsMemory

theorem Upheld.settled {s t : State} (h : Upheld s t) (buffer : t.port.buffer = s.port.buffer) : Settled s t :=
  ⟨h, Port.headIsMemory_congr buffer⟩

/-- The grants, the QUIESCED test and ATTN leave the port alone. -/
theorem Settled.conclude {s t : State} (h : Settled s t) : Settled s t.conclude :=
  ⟨h.upheld.conclude, fun head => by
    rw [State.port_of_outside (State.conclude_outside t)]
    exact h.head head⟩

/-- The command goes on, and to `s` itself or to a state that ends a happening that began in `s`. -/
def State.GoesOn (s : State) (out : Host.Outcome State Fault Refusal) : Prop :=
  ∃ t, out = .next t ∧ (t = s ∨ Settled s t)

theorem State.goesOn_self (s : State) : s.GoesOn (.next s) := ⟨s, rfl, .inl rfl⟩

theorem Settled.goesOn {s t : State} (h : Settled s t) : s.GoesOn (.next t) := ⟨t, rfl, .inr h⟩

/-- A host request that the port takes comes with RESET deasserted (R1). -/
theorem State.hostRequest_goesOn (s : State) (f : State → State) (taken : Upheld s s → Settled s (f s)) :
    s.GoesOn (s.hostRequest f) := by
  unfold State.hostRequest
  split
  · rename_i takes
    simp only [State.hostTakes, Bool.and_eq_true, Bool.not_eq_true'] at takes
    exact (taken (.refl s takes.1)).goesOn
  · exact s.goesOn_self

section
variable {s : State} (h : Upheld s s)
include h

theorem Upheld.settledWrite (e : PostEntry) (inRange : s.AddressesInRange → e.InRange s.straps) :
    Settled s (s.presentWrite e).conclude :=
  Settled.conclude ⟨h.presentWrite e inRange, fun head => State.presentWrite_headIsMemory head e⟩

theorem Upheld.takeRead (line : Nat) (mask : BitVec 8) : Settled s (s.takeRead line mask) := by
  unfold State.takeRead
  split
  · exact (h.respond ..).settled rfl
  · split
    · exact (h.respond ..).settled rfl
    · rename_i inHost _
      exact ((h.hold (.readHeld line mask) fun _ => Nat.lt_of_not_le inHost).settled rfl).conclude

theorem Upheld.takeWrite (line : Nat) (mask : BitVec 64) (data : BitVec 512) : Settled s (s.takeWrite line mask data) := by
  unfold State.takeWrite
  split
  · exact (h.respond ..).settled rfl
  · split
    · exact (h.respond ..).settled rfl
    · rename_i inHost _
      exact h.settledWrite _ fun _ => Nat.lt_of_not_le inHost

theorem Upheld.postRegister (target : PostedRegister) (v : BitVec 32) : Settled s (s.postRegister target v) :=
  h.settledWrite _ fun _ => trivial

theorem Upheld.acceptCqHead (v : BitVec 32) : Settled s (s.acceptCqHead v) := by
  refine Settled.conclude (((h.respond ..).writeCqHead _).settled ?_)
  rw [State.port_of_kept (State.writeCqHead_kept ..)]
  rfl

theorem Upheld.acceptEqHead (v : BitVec 32) : Settled s (s.acceptEqHead v) := by
  refine Settled.conclude (((h.respond ..).writeEqHead _).settled ?_)
  rw [State.port_of_kept (State.writeEqHead_kept ..)]
  rfl

theorem Upheld.acceptAnchorWrite (v : BitVec 32) : Settled s (s.acceptAnchorWrite v) :=
  ((h.respond .accepted []).withRegisters { s.engine with anchor := v.extractLsb' 0 28 } rfl rfl).settled rfl

theorem Upheld.acceptFaultInfo (v : BitVec 32) : Settled s (s.acceptFaultInfo v) := by
  unfold State.acceptFaultInfo
  split
  · exact ((h.respond .accepted []).withNews { s.news with capture := none } id).settled rfl
  · exact (h.respond ..).settled rfl

/-- A register write by offset (R40). -/
theorem Upheld.writeRegister (offset : Nat) (v : BitVec 32) : Settled s (s.writeRegister offset v) := by
  unfold State.writeRegister
  repeat' split
  · exact h.postRegister ..
  · exact h.acceptAnchorWrite v
  · exact h.postRegister ..
  · exact h.acceptCqHead v
  · exact h.acceptEqHead v
  · exact h.acceptFaultInfo v
  · exact (h.respond ..).settled rfl

end

/-! ### The ends of tenures -/

/-- A tenure that ends is the one in progress, of the named work, with RESET deasserted (R17). -/
theorem State.ending_some {s : State} {f : Work → Bool} {t : Tenure} (h : s.ending f = some t) :
    s.resetAsserted = false ∧ s.arbiter.tenure = some t ∧ f t.work = true := by
  unfold State.ending at h
  split at h
  · cases h
  · rename_i live
    exact ⟨by simpa using live, Option.filter_eq_some_iff.1 h⟩

section
variable {s : State}

/-- The line of the tenure in progress is a host line. -/
theorem Upheld.tenureLine (h : Upheld s s) {t : Tenure} (tenure : s.arbiter.tenure = some t) (ho : s.AddressesInRange) :
    t.line < s.straps.hostLines := (h.inRange ho).tenure t tenure

theorem State.endHostRead_settled (h : Upheld s s) (t : Tenure) (tenure : s.arbiter.tenure = some t) :
    Settled s (s.endHostRead t) := by
  have answered := ((h.freeChannel.respond (readCode t.reports) (deliveredWords t.reports)).hold .idle fun _ => trivial)
  refine (answered.foldl (fun k r => k.handReadWord (h.tenureLine tenure) r) t.reports).settled ?_
  rw [State.port_of_kept (State.foldl_handReadWord_kept ..)]
  rfl

/-- The end of a drain frees one place, which a held write may take (R36, R38). -/
theorem State.endDrain_settled (h : Upheld s s) (t : Tenure) (tenure : s.arbiter.tenure = some t) :
    Settled s (s.endDrain t) := by
  have left := h.freeChannel.setBuffer s.port.buffer.tail (List.tail_sublist _)
  have handed := left.foldl (fun k r => k.handDrainWord (h.tenureLine tenure) r) t.reports
  have buffer : (t.reports.foldl (State.handDrainWord t.line) (s.freeChannel.setBuffer s.port.buffer.tail)).port.buffer
      = s.port.buffer.tail := by
    rw [State.port_of_kept (State.foldl_handDrainWord_kept ..)]
    rfl
  refine ⟨handed.deliverHeads.acceptHeld fun ho => ?_, fun _ =>
    State.acceptHeld_headIsMemory (State.deliverHeads_headIsMemory _)⟩
  have shorter := deliverFrom_buffer_length _ _ buffer
  have bound := ho.buffer
  unfold State.deliverHeads
  rw [buffer]
  rw [List.length_tail] at shorter
  omega

/-- The end of a tenure of the engine's (R17, R18). -/
theorem State.endTenure_goesOn (f : Work → Bool) (take : Tenure → State → State)
    (taken : ∀ t, Upheld s s → s.arbiter.tenure = some t → f t.work = true → t.discarded = false →
      Upheld s (take t s.freeChannel))
    (kept : ∀ t, (take t s.freeChannel).kept = s.freeChannel.kept) : s.GoesOn (s.endTenure f take) := by
  unfold State.endTenure
  split
  · rename_i t ending
    obtain ⟨live, tenure, work⟩ := State.ending_some ending
    have began := Upheld.refl s live
    split
    · exact (began.freeChannel.settled rfl).conclude.goesOn
    · rename_i wanted
      have ended := taken t began tenure work (by simpa using wanted)
      exact (ended.settled (congrArg Port.buffer (State.port_of_kept (kept t)))).conclude.goesOn
  · exact s.goesOn_self

theorem State.takeCopyStep_kept (t : Tenure) (s : State) : (State.takeCopyStep t s).kept = s.kept := by
  unfold State.takeCopyStep
  split <;> simp

theorem State.takeSlotTenure_kept (t : Tenure) (s : State) : (State.takeSlotTenure t s).kept = s.kept := by
  unfold State.takeSlotTenure
  repeat' split
  all_goals simp

theorem Upheld.takeCopyStep {o : State} (h : Upheld o s) (t : Tenure) : Upheld o (State.takeCopyStep t s) := by
  unfold State.takeCopyStep
  split
  · rename_i m copying
    exact h.endCopyStep m _ _ copying
  · exact h

theorem Upheld.takeSlotTenure {o : State} (h : Upheld o s) (t : Tenure)
    (inHost : o.AddressesInRange → t.line < o.straps.hostLines) : Upheld o (State.takeSlotTenure t s) := by
  unfold State.takeSlotTenure
  split
  · split
    · rename_i sl occupied
      exact h.endSlotTenure _ sl _ inHost occupied
    · exact h
  · exact h

/-- A fetch in tenure has its record's place in the pending list kept (R129). -/
theorem State.QueuesBounded.room_of_fetch (h : s.QueuesBounded) {t : Tenure} (tenure : s.arbiter.tenure = some t)
    (fetch : t.work = .fetch) (wanted : t.discarded = false) : s.admission.pendingList.length < 16 := by
  have bound := h.pending
  simp only [State.fetchInTenure, tenure, Option.any_some, fetch, wanted, BEq.rfl, Bool.not_false, Bool.and_self, if_true]
    at bound
  omega

end

theorem State.takePatrolTenure_kept (t : Tenure) (s : State) : (State.takePatrolTenure t s).kept = s.kept := by
  simp [State.takePatrolTenure]

/-! ### The commands that end a tenure -/

theorem State.hostReadEnd_goesOn (s : State) : s.GoesOn (execHostReadEnd s) := by
  unfold execHostReadEnd
  split
  · rename_i t ending
    obtain ⟨live, tenure, _⟩ := State.ending_some ending
    exact (State.endHostRead_settled (.refl s live) t tenure).conclude.goesOn
  · exact s.goesOn_self

theorem State.drainEnd_goesOn (s : State) : s.GoesOn (execDrainEnd s) := by
  unfold execDrainEnd
  split
  · rename_i t ending
    obtain ⟨live, tenure, _⟩ := State.ending_some ending
    exact (State.endDrain_settled (.refl s live) t tenure).conclude.goesOn
  · exact s.goesOn_self

theorem State.anchorReadEnd_goesOn (s : State) : s.GoesOn (execAnchorReadEnd s) :=
  State.endTenure_goesOn _ (fun t s => s.endAnchorRead t.line t.reports)
    (fun _ h tenure _ _ => h.freeChannel.endAnchorRead _ (h.tenureLine tenure)) fun _ => State.endAnchorRead_kept ..

theorem State.fetchEnd_goesOn (s : State) : s.GoesOn (execFetchEnd s) := by
  refine State.endTenure_goesOn _ (fun t s => s.endFetch t.line t.reports) (fun t h tenure fetch wanted => ?_)
    fun _ => State.endFetch_kept ..
  have work : t.work = .fetch := by simpa using fetch
  exact h.freeChannel.endFetch _ (h.tenureLine tenure) (fun ho => ho.room_of_fetch tenure work wanted) rfl

/-! ### Records and expiries -/

/-- A record that admission takes finds a place in the pending list (R129, log 7). -/
theorem State.presentRecord_goesOn (s : State) (tag : Tag) (c : Command) : s.GoesOn (s.presentRecord tag c) := by
  unfold State.presentRecord
  split
  · rename_i admits
    simp only [State.admits, Bool.and_eq_true, Bool.not_eq_true', decide_eq_true_eq] at admits
    obtain ⟨⟨⟨⟨live, _⟩, room⟩, _⟩, noFetch⟩ := admits
    have taken := (Upheld.refl s live).takeRecord ⟨tag, c.kindCode, some c⟩ (fun _ => room) noFetch
    exact (taken.settled (congrArg Port.buffer (State.port_of_kept (State.takeRecord_kept ..)))).conclude.goesOn
  · exact s.goesOn_self

theorem State.patrolExpiry_goesOn (s : State) : s.GoesOn (execPatrolExpiry s) := by
  unfold execPatrolExpiry
  split
  · rename_i expires
    have expired := (Upheld.refl s expires.1).expire
    exact (expired.settled (congrArg Port.buffer (State.port_of_kept (State.expire_kept s)))).conclude.goesOn
  · exact s.goesOn_self

/-- No reset, no release of one, no disturbance. -/
def Ordinary : Instr → Prop
  | .deviceReset _ | .deviceResetRelease _ _ | .disturbance _ _ _ _ => False
  | _ => True

/-- Every command but a reset, its release and a disturbance goes on, and ends a happening that upholds every bound. -/
theorem exec_goesOn (c : Instr) (s : State) (ordinary : Ordinary c) : s.GoesOn (exec c s) := by
  cases c with
  | deviceReset _ | deviceResetRelease _ _ | disturbance _ _ _ _ => exact ordinary.elim
  | hostRead line mask => exact s.hostRequest_goesOn (·.takeRead line.toNat mask) fun h => h.takeRead ..
  | hostWrite line mask data => exact s.hostRequest_goesOn (·.takeWrite line.toNat mask data) fun h => h.takeWrite ..
  | start v => exact s.hostRequest_goesOn (·.postRegister .ctrl (v ||| 1#32)) fun h => h.postRegister ..
  | quiesce v => exact s.hostRequest_goesOn (·.postRegister .ctrl (v ||| 2#32)) fun h => h.postRegister ..
  | engineReset v => exact s.hostRequest_goesOn (·.postRegister .ctrl (v ||| 4#32)) fun h => h.postRegister ..
  | enableBits v => exact s.hostRequest_goesOn (·.postRegister .ctrl v) fun h => h.postRegister ..
  | sqTail v => exact s.hostRequest_goesOn (·.postRegister .sqTail v) fun h => h.postRegister ..
  | cqHead v => exact s.hostRequest_goesOn (·.acceptCqHead v) fun h => h.acceptCqHead v
  | eqHead v => exact s.hostRequest_goesOn (·.acceptEqHead v) fun h => h.acceptEqHead v
  | anchor v => exact s.hostRequest_goesOn (·.acceptAnchorWrite v) fun h => h.acceptAnchorWrite v
  | faultInfoClear v =>
    exact s.hostRequest_goesOn (·.acceptFaultInfo (v ||| 0x80000000#32)) fun h => h.acceptFaultInfo _
  | registerWriteOther offset v => exact s.hostRequest_goesOn (·.writeRegister offset v) fun h => h.writeRegister offset v
  | hostReadEnd => exact s.hostReadEnd_goesOn
  | drainEnd => exact s.drainEnd_goesOn
  | anchorReadEnd => exact s.anchorReadEnd_goesOn
  | fetchEnd => exact s.fetchEnd_goesOn
  | ringPostEnd => exact State.endTenure_goesOn _ (fun _ s => s) (fun _ h _ _ _ => h.freeChannel) fun _ => rfl
  | copyStepEnd =>
    exact State.endTenure_goesOn _ State.takeCopyStep (fun t h _ _ _ => h.freeChannel.takeCopyStep t)
      fun t => State.takeCopyStep_kept t _
  | slotTenureEnd =>
    exact State.endTenure_goesOn _ State.takeSlotTenure
      (fun t h tenure _ _ => h.freeChannel.takeSlotTenure t (h.tenureLine tenure)) fun t => State.takeSlotTenure_kept t _
  | patrolTenureEnd =>
    exact State.endTenure_goesOn _ State.takePatrolTenure
      (fun t h tenure _ _ => (h.freeChannel.handWords (h.tenureLine tenure) ..).patrolMovesOn _)
      fun t => State.takePatrolTenure_kept t _
  | patrolExpiry => exact s.patrolExpiry_goesOn
  | scrub _ _ _ _ | verify _ _ _ | fill _ _ _ _ | copy _ _ _ _ | retire _ _ | install _ _ _ | withdrawSpare _ _
  | query _ _ | clearSuspect _ _ | setRegion _ _ _ _ _ _ | setPatrol _ _ _ _ | fence _ | abort _ _ =>
    exact s.presentRecord_goesOn ..

end Sys2Proof.Machine
end

section
/-!
Settled here: O10, O47 and O2, by one induction principle for steps.
-/

namespace Sys2Proof.Machine

/-! ### One step -/

/-- What every command keeps, a step keeps: the queue's front leaves, and then a device reset, a release, a disturbance, or
a happening that upholds every bound. -/
theorem step_keeps {P : State → Prop} (queue : ∀ s q, P s → P (s.withPending q))
    (reset : ∀ s powerOn, P s → P (State.reset.withMemory (s.memory.afterReset powerOn)))
    (release : ∀ s size spare, P s → s.resetAsserted = true → P (s.sampleStraps size spare))
    (disturbed : ∀ s key word, P s → P (s.withMemory (s.memory.write key word)))
    (settled : ∀ s t, P s → Settled s t → P t) (s t : State) (before : P s) (stepped : step s = .next t) : P t := by
  unfold step at stepped
  split at stepped
  · cases stepped
    exact before
  · rename_i c rest _
    have taken := queue s rest before
    generalize s.withPending rest = u at stepped taken
    by_cases ordinary : Ordinary c
    · obtain ⟨t', next, same | ends⟩ := exec_goesOn c u ordinary
      · cases next.symm.trans stepped
        exact same ▸ taken
      · cases next.symm.trans stepped
        exact settled u t taken ends
    · cases c with
      | deviceReset powerOn =>
        cases stepped
        exact queue _ _ (reset u powerOn taken)
      | deviceResetRelease size spare =>
        cases stepped
        split
        · rename_i asserted
          exact release u size spare taken asserted
        · exact taken
      | disturbance frame line word change =>
        simp only [exec, execDisturbance] at stepped
        split at stepped
        · cases stepped
          exact disturbed u _ _ taken
        · cases stepped
      | _ => exact absurd trivial ordinary

/-- Rising keys are keys that rise pairwise. -/
theorem cellsRise_iff_pairwise (cs : List (Nat × StoredWord)) :
    cellsRise cs = true ↔ cs.Pairwise fun a b => a.1 < b.1 := by
  induction cs with
  | nil => simp [cellsRise]
  | cons c cs ih => rw [cellsRise_cons, List.pairwise_cons, ih]

theorem Memory.wf_afterReset (m : Memory) (powerOn : Bool) (h : m.wf = true) : (m.afterReset powerOn).wf = true := by
  cases powerOn
  · exact h
  · rfl

/-- Settles O10: every command keeps the keys rising, as each write of memory does. -/
theorem stepsKeepMemoryCanonical : Obligations.StepsKeepMemoryCanonical :=
  ⟨fun s t => step_keeps (P := State.MemoryCanonical) (fun _ _ => id) (fun s powerOn => s.memory.wf_afterReset powerOn)
      (fun _ _ _ h _ => h) (fun s key word => s.memory.wf_write key word) (fun _ _ h ends => ends.upheld.memory h) s t,
    fun s => cellsRise_iff_pairwise s.memory.cells⟩

/-- The part in reset has the tables' sizes, whatever its memory holds. -/
theorem State.shaped_reset (m : Memory) : (State.reset.withMemory m).Shaped := ⟨rfl, rfl, rfl, rfl⟩

/-- The part in reset has every queue empty, whatever its memory holds. -/
theorem State.queuesBounded_reset (m : Memory) : (State.reset.withMemory m).QueuesBounded := by
  constructor <;> exact Nat.zero_le _

theorem State.countersBounded_reset (m : Memory) : (State.reset.withMemory m).CountersBounded :=
  ⟨Nat.zero_le _, Nat.le_refl 3, Nat.zero_lt_succ _⟩

/-- The part in reset holds no line and no frame, whatever its memory and its Spare Pool hold. -/
theorem State.groupsInRange_reset (p : Straps) (m : Memory) (spares : List SpareState)
    (pool : spares.length = p.spareFrames) :
    ((State.reset.withMemory m).withTables { Tables.reset with spares }).GroupsInRange p where
  spares := pool
  tables := ⟨by rintro _ ⟨⟩, by rintro _ ⟨⟩, by rintro _ ⟨⟩, by rintro _ ⟨⟩⟩
  tenure := by rintro _ ⟨⟩
  port := ⟨trivial, by rintro _ ⟨⟩⟩
  admission := ⟨by rintro _ ⟨⟩, fun k sl occupied =>
    (Option.some_ne_none sl (occupied.symm.trans (placeAt_replicate_none 4 k))).elim⟩
  engine := ⟨by rintro _ ⟨⟩, by rintro _ ⟨⟩⟩
  patrol := by rintro _ _ ⟨⟩

theorem State.addressesInRange_reset (m : Memory) : (State.reset.withMemory m).AddressesInRange :=
  (State.groupsInRange_reset State.reset.straps m [] rfl).addressesInRange fun _ => rfl

theorem State.AddressesInRange.withPending {s : State} (h : s.AddressesInRange) (q : List Instr) :
    (s.withPending q).AddressesInRange :=
  { h with
    remap := { h.remap with }
    inReset := fun asserted => congrArg (·.withPending q) (h.inReset asserted) }

theorem State.AddressesInRange.withMemory {s : State} (h : s.AddressesInRange) (m : Memory) :
    (s.withMemory m).AddressesInRange :=
  { h with
    remap := { h.remap with }
    inReset := fun asserted => congrArg (·.withMemory m) (h.inReset asserted) }

/-- The release finds the part in reset, so it fixes U with nothing held (R1). -/
theorem State.AddressesInRange.sampleStraps {s : State} (h : s.AddressesInRange) (asserted : s.resetAsserted = true)
    (size : BitVec 3) (spare : BitVec 2) : (s.sampleStraps size spare).AddressesInRange := by
  have groups := State.groupsInRange_reset ⟨size, spare⟩ s.memory
    (List.replicate (Straps.spareFrames ⟨size, spare⟩) .free) List.length_replicate
  have released : (((State.reset.withMemory s.memory).withPending s.pending).sampleStraps size spare).AddressesInRange :=
    State.GroupsInRange.addressesInRange ⟨groups.spares, groups.tables, groups.tenure, groups.port, groups.admission,
      groups.engine, groups.patrol⟩ (by rintro ⟨⟩)
  rwa [← h.inReset asserted] at released

/-- Settles O47: each bound holds in reset, at the release and through a disturbance, and every happening upholds it. -/
theorem stepsKeepQueuesAndCountersBounded : Obligations.StepsKeepQueuesAndCountersBounded := by
  refine ⟨fun s t queues counters => ?_, ?_, ?_, ?_⟩
  · exact step_keeps (P := fun s => s.QueuesBounded ∧ s.CountersBounded)
      (fun _ _ h => ⟨{ h.1 with }, { h.2 with }⟩)
      (fun _ _ _ => ⟨State.queuesBounded_reset _, State.countersBounded_reset _⟩)
      (fun _ _ _ h _ => ⟨{ h.1 with }, { h.2 with }⟩)
      (fun _ _ _ h => ⟨{ h.1 with }, { h.2 with }⟩)
      (fun _ _ h ends => ⟨ends.upheld.queues h.1, ends.upheld.counters h.2⟩) s t ⟨queues, counters⟩
  · exact step_keeps (P := State.Shaped) (fun _ _ h => { h with }) (fun _ _ _ => State.shaped_reset _)
      (fun _ _ _ h _ => { h with spares := List.length_replicate }) (fun _ _ _ h => { h with })
      fun _ _ h ends => ends.upheld.shaped h
  · exact step_keeps (P := fun s => s.port.headIsMemory) (fun _ _ => id) (fun _ _ _ => trivial) (fun _ _ _ h _ => h)
      (fun _ _ _ => id) fun _ _ h ends => ends.head h
  · exact step_keeps (P := State.AddressesInRange) (fun _ q h => h.withPending q)
      (fun _ _ _ => State.addressesInRange_reset _) (fun _ size spare h asserted => h.sampleStraps asserted size spare)
      (fun _ _ _ h => h.withMemory _) fun _ _ h ends =>
        (ends.upheld.straps ▸ ends.upheld.inRange h).addressesInRange fun asserted =>
          absurd asserted (by simp [ends.upheld.resetAsserted, ends.upheld.live])

/-- Settles O2: a happening keeps the pins, the straps and the queue of commands; a disturbance changes memory alone. -/
theorem commandsGoOnAndKeepStraps : Obligations.CommandsGoOnAndKeepStraps := by
  intro c s installed
  by_cases ordinary : Ordinary c
  · obtain ⟨t, next, same | ends⟩ := exec_goesOn c s ordinary
    · exact ⟨t, next, same ▸ ⟨rfl, fun _ _ => ⟨rfl, rfl⟩⟩⟩
    · exact ⟨t, next, ends.upheld.pending, fun _ _ => ⟨ends.upheld.straps, ends.upheld.resetAsserted⟩⟩
  · cases c with
    | deviceReset powerOn => exact ⟨_, rfl, rfl, fun other => absurd rfl (other powerOn)⟩
    | deviceResetRelease size spare =>
      refine ⟨_, rfl, ?_, fun _ other => absurd rfl (other size spare)⟩
      split <;> rfl
    | disturbance frame line word change =>
      exact ⟨_, if_pos (installed frame line word change rfl), rfl, fun _ _ => ⟨rfl, rfl⟩⟩
    | _ => exact absurd trivial ordinary

end Sys2Proof.Machine
end

section
/-!
Settled here: O3, O4, O5 and O6, on requests not taken, the resets and DISTURBANCE (spec 01).
-/

namespace Sys2Proof.Machine

/-! ### Host requests -/

theorem State.hostTakes_iff (s : State) : s.hostTakes = true ↔ s.resetAsserted = false ∧ s.port.held = .idle := by
  simp [State.hostTakes]

/-- A request that the port does not take changes nothing (log 5). -/
theorem State.hostRequest_refused (s : State) (f : State → State) (h : s.resetAsserted = true ∨ s.port.held ≠ .idle) :
    s.hostRequest f = .next s := by
  have refused : ¬ s.hostTakes = true := by
    rw [State.hostTakes_iff]
    rintro ⟨live, idle⟩
    exact h.elim (by simp [live]) (· idle)
  simp only [State.hostRequest, if_neg refused]

/-- Settles O3: each of the host's requests goes through `hostRequest`. -/
theorem hostRequestsNotTaken : Obligations.HostRequestsNotTaken := by
  refine ⟨State.hostTakes_iff, fun c s h request => ?_⟩
  rcases request with ⟨l, m, rfl⟩ | ⟨l, m, d, rfl⟩ | ⟨v, rfl⟩ | ⟨v, rfl⟩ | ⟨v, rfl⟩ | ⟨v, rfl⟩ | ⟨v, rfl⟩ | ⟨v, rfl⟩
    | ⟨v, rfl⟩ | ⟨v, rfl⟩ | ⟨v, rfl⟩ | ⟨offset, v, rfl⟩
  all_goals
    simp only [exec, execHostRead, execHostWrite, execStart, execQuiesce, execEngineReset, execEnableBits, execSqTail,
      execCqHead, execEqHead, execAnchor, execFaultInfoClear, execRegisterWriteOther]
    exact s.hostRequest_refused _ h

/-! ### The state after reset -/

theorem State.slotAt_reset (k : Nat) : State.reset.slotAt k = none := placeAt_replicate_none 4 k

/-- Nothing retires in reset (R62, R87, R99). -/
theorem State.retirementLaws_reset : State.reset.RetirementLaws where
  tables :=
    { frames := List.nodup_nil
      named := List.nodup_nil
      assigned := fun _ => ⟨by rintro ⟨⟩, by rintro ⟨_, ⟨⟩, _⟩⟩
      target := fun _ => ⟨by rintro ⟨⟩, by rintro ⟨_, ⟨⟩, _⟩⟩
      unit := by rintro _ ⟨⟩
      entry := by rintro _ ⟨⟩ }
  suspects := by decide
  queueFrames := List.nodup_nil
  queueNotMigrating := by rintro _ ⟨⟩
  queueServed _ := rfl
  idleWhenOff _ := rfl
  queuedEntries e inside := absurd inside (by simp [State.reset, Tables.reset])
  migratingEntries e inside := absurd inside (by simp [State.reset, Tables.reset])
  anchorRead := by rintro _ ⟨⟩
  clearedInReset _ := rfl

theorem State.slotsCompatible_reset : State.reset.SlotsCompatible := fun i _ a _ _ occupied _ =>
  absurd ((State.slotAt_reset i).symm.trans occupied) (Option.some_ne_none a).symm

theorem State.waiting_reset : State.reset.waiting = [] := by decide

/-- Settles O4: in reset every queue and table is empty. -/
theorem resetKeepsTheInvariants : Obligations.ResetKeepsTheInvariants :=
  ⟨rfl, State.shaped_reset ⟨0, []⟩, State.queuesBounded_reset ⟨0, []⟩, State.countersBounded_reset ⟨0, []⟩,
    ⟨by decide, by decide⟩, State.slotsCompatible_reset, State.retirementLaws_reset, rfl, fun _ => State.waiting_reset,
    fun _ _ _ _ entry => absurd entry List.not_mem_nil, State.addressesInRange_reset ⟨0, []⟩, trivial⟩

/-! ### Device reset and its release -/

theorem Straps.physicalFrames_eq (size : BitVec 3) (spare : BitVec 2) :
    Straps.physicalFrames ⟨size, spare⟩ = 262144 * 2 ^ min size.toNat 4 := by
  have codes : ∀ size : BitVec 3, Straps.physicalFrames ⟨size, 0#2⟩ = 262144 * 2 ^ min size.toNat 4 := by decide
  exact codes size

theorem Straps.spareFrames_eq (size : BitVec 3) (spare : BitVec 2) :
    Straps.spareFrames ⟨size, spare⟩ = if spare.toNat = 0 then 0 else 8 * 2 ^ spare.toNat := by
  have codes : ∀ spare : BitVec 2, Straps.spareFrames ⟨0#3, spare⟩ = if spare.toNat = 0 then 0 else 8 * 2 ^ spare.toNat := by
    decide
  exact codes spare

/-- Every installation has more physical frames than spares (R1). -/
theorem Straps.spareFrames_le (p : Straps) : p.spareFrames ≤ p.physicalFrames := by
  have spares : p.spareFrames ≤ 64 := by
    unfold Straps.spareFrames
    split <;> decide
  have frames : 262144 ≤ p.physicalFrames := by
    unfold Straps.physicalFrames
    split <;> decide
  omega

/-- What the registers read after a device reset (11.6): STAT shows an empty Write Post Buffer, every other 0. -/
theorem State.registers_reset :
    State.reset.readRegister 0x00 = 0#32 ∧ State.reset.readRegister 0x04 = 0x00020000#32
      ∧ State.reset.readRegister 0x08 = 0#32 ∧ State.reset.readRegister 0x0C = 0#32
      ∧ State.reset.readRegister 0x10 = 0#32 ∧ State.reset.readRegister 0x14 = 0#32
      ∧ State.reset.readRegister 0x18 = 0#32 ∧ State.reset.readRegister 0x1C = 0#32 := by decide

/-- Settles O5: the reset state's values, and the strap table at the release. -/
theorem deviceResetValues : Obligations.DeviceResetValues := by
  refine ⟨fun powerOn s => ?_, fun size spare s => ⟨fun asserted => ?_, fun live => ?_⟩⟩
  · refine ⟨_, rfl, rfl, rfl, rfl, rfl, rfl, State.waiting_reset, ?_⟩
    exact ⟨rfl, rfl, rfl, rfl, rfl, rfl, rfl, rfl, rfl, rfl, rfl, rfl, rfl, rfl, rfl, rfl, rfl, rfl, State.registers_reset⟩
  · refine ⟨s.sampleStraps size spare, ?_, rfl, Straps.physicalFrames_eq size spare, Straps.spareFrames_eq size spare,
      Nat.sub_add_cancel (Straps.spareFrames_le _), rfl, rfl⟩
    simp [exec, execDeviceResetRelease, asserted]
  · simp [exec, execDeviceResetRelease, live]

/-! ### Disturbance -/

/-- Settles O6: one word is written, with what `disturbWord` makes of it. -/
theorem disturbanceChangesOneWord : Obligations.DisturbanceChangesOneWord := by
  refine ⟨fun _ => rfl, fun frame line word change s => ⟨fun installed => ⟨_, if_pos installed, ?_, ?_⟩, fun absent => ?_⟩⟩
  · intro l w inLine other
    refine Memory.read_write_ne _ _ _ _ fun same => other ?_
    exact wordKey_inj inLine word.isLt same
  · generalize old : s.memory.read (wordKey (frame.toNat * 64 + line) word) = w
    cases w <;> cases change <;> simp [disturbWord]
  · exact if_neg (Nat.not_lt_of_le absent)

end Sys2Proof.Machine
end

section
/-!
What the tenure kinds do to the words of a line (spec 01, R6 to R15): one reading rule for each kind. Settled here: O7, O8
and O9.
-/

namespace Sys2Proof.Machine

/-! ### Words stored into one line -/

/-- Some words of one line are stored: those read as stored, the line's others as before. -/
theorem Memory.read_writeAll_line (m : Memory) (line : Nat) (stored : Nat → Bool) (f : Nat → StoredWord) {w : Nat}
    (hw : w < 8) :
    (m.writeAll (((List.range 8).filter stored).map fun i => (wordKey line i, f i))).read (wordKey line w)
      = if stored w then f w else m.read (wordKey line w) := by
  have named (c : Nat × StoredWord) (inside : c ∈ ((List.range 8).filter stored).map fun i => (wordKey line i, f i))
      (key : c.1 = wordKey line w) : stored w = true ∧ c.2 = f w := by
    simp only [List.mem_map, List.mem_filter, List.mem_range] at inside
    obtain ⟨i, ⟨hi, chosen⟩, rfl⟩ := inside
    obtain ⟨_, rfl⟩ := wordKey_inj hi hw key
    exact ⟨chosen, rfl⟩
  split
  · rename_i chosen
    exact Memory.read_writeAll_of_mem _ _ _ _ (fun c inside key => (named c inside key).2)
      ⟨(wordKey line w, f w), by simpa using ⟨w, ⟨hw, chosen⟩, rfl, rfl⟩, rfl⟩
  · rename_i left
    exact Memory.read_writeAll_of_notMem _ _ _ fun c inside key => left (named c inside key).1

/-- Words stored into one line leave every other line as it was. -/
theorem Memory.read_writeAll_otherLine (m : Memory) (line : Nat) (stored : Nat → Bool) (f : Nat → StoredWord) {l w : Nat}
    (hw : w < 8) (other : l ≠ line) :
    (m.writeAll (((List.range 8).filter stored).map fun i => (wordKey line i, f i))).read (wordKey l w)
      = m.read (wordKey l w) := by
  refine Memory.read_writeAll_of_notMem _ _ _ fun c inside key => other ?_
  simp only [List.mem_map, List.mem_filter, List.mem_range] at inside
  obtain ⟨i, ⟨hi, _⟩, rfl⟩ := inside
  exact (wordKey_inj hi hw key).1.symm

/-! ### Repair Reads (R14) -/

/-- A word that a Repair Read leaves UNCHANGED is the word itself. -/
theorem repairWord_unchanged (option : Bool) (w : StoredWord) (h : (repairWord option w).2 = .unchanged) :
    (repairWord option w).1 = w := by
  cases w with
  | clean _ | poison => rfl
  | single _ _ => cases h
  | multi _ => cases option <;> simp_all [repairWord]

theorem read_repairReadEffect (m : Memory) (line : Nat) (option : Bool) {w : Nat} (hw : w < 8) :
    (m.writeAll (repairReadEffect m line option).writes).read (wordKey line w)
      = (repairWord option (m.read (wordKey line w))).1 := by
  refine (Memory.read_writeAll_line m line _ (fun i => (repairWord option (m.read (wordKey line i))).1) hw).trans ?_
  split
  · rfl
  · rename_i same
    exact (repairWord_unchanged option _ (by simpa using same)).symm

theorem read_repairReadEffect_otherLine (m : Memory) (line : Nat) (option : Bool) {l w : Nat} (hw : w < 8)
    (other : l ≠ line) : (m.writeAll (repairReadEffect m line option).writes).read (wordKey l w) = m.read (wordKey l w) :=
  Memory.read_writeAll_otherLine m line _ _ hw other

/-- Settles O8: each word reads as `repairWord` makes it, by its condition. -/
theorem repairReadMendsInPlace : Obligations.RepairReadMendsInPlace := by
  refine ⟨fun word => by cases word <;> rfl, fun m line option => ⟨fun w hw => ?_, ?_, ?_⟩⟩
  · rw [read_repairReadEffect m line option hw]
    cases m.read (wordKey line w) with
    | clean _ | single _ _ | poison => rfl
    | multi _ => cases option <;> rfl
  · exact fun l w hw other => read_repairReadEffect_otherLine m line option hw other
  · refine List.map_congr_left fun w _ => ?_
    cases m.read (wordKey line w) with
    | clean _ | single _ _ | poison => rfl
    | multi _ => cases option <;> rfl

/-! ### Copy Steps (R15) -/

theorem copyStepEffect_writes (m : Memory) (source target : Nat) : (copyStepEffect m source target).writes
    = ((List.range 8).filter fun _ => true).map fun w => (wordKey target w, (copiedWord (m.read (wordKey source w))).1) := by
  simp [copyStepEffect]

theorem read_copyStepEffect (m : Memory) (source target : Nat) {w : Nat} (hw : w < 8) :
    (m.writeAll (copyStepEffect m source target).writes).read (wordKey target w)
      = (copiedWord (m.read (wordKey source w))).1 := by
  rw [copyStepEffect_writes]
  exact Memory.read_writeAll_line m target _ _ hw

theorem read_copyStepEffect_otherLine (m : Memory) (source target : Nat) {l w : Nat} (hw : w < 8) (other : l ≠ target) :
    (m.writeAll (copyStepEffect m source target).writes).read (wordKey l w) = m.read (wordKey l w) := by
  rw [copyStepEffect_writes]
  exact Memory.read_writeAll_otherLine m target _ _ hw other

/-- Settles O9: each target word reads as `copiedWord` makes it of the source word. -/
theorem copyStepWritesTheTarget : Obligations.CopyStepWritesTheTarget := by
  refine fun m source target _ => ⟨fun w hw => ?_, ?_, ?_⟩
  · rw [read_copyStepEffect m source target hw]
    cases m.read (wordKey source w) <;> rfl
  · exact fun l w hw other => read_copyStepEffect_otherLine m source target hw other
  · refine List.map_congr_left fun w _ => ?_
    cases m.read (wordKey source w) <;> rfl

/-! ### Merging bytes (R11) -/

/-- The 8 bits of lane n (R2). -/
theorem getLsbD_lane {n : Nat} (hn : n < 8) (i : Nat) : (0xFF#64 <<< (8 * n)).getLsbD i = decide (i / 8 = n) := by
  have ones (j : Nat) : (0xFF#64).getLsbD j = decide (j < 8) := by
    rw [show (0xFF#64) = (BitVec.allOnes 8).setWidth 64 from rfl, BitVec.getLsbD_setWidth, BitVec.getLsbD_allOnes,
      Bool.and_eq_right_iff_imp]
    simp only [decide_eq_true_eq]
    omega
  rw [BitVec.getLsbD_shiftLeft, ones, Bool.eq_iff_iff]
  simp only [Bool.and_eq_true, Bool.not_eq_true', decide_eq_true_eq, decide_eq_false_iff_not]
  omega

/-- The first n lanes of the mask, bit by bit. -/
theorem getLsbD_foldl_laneMask (lanes : BitVec 8) (n i : Nat) (hn : n ≤ 8) :
    ((List.range n).foldl (fun acc b => if lanes.getLsbD b then acc ||| (0xFF#64 <<< (8 * b)) else acc) 0#64).getLsbD i
      = (decide (i < 8 * n) && lanes.getLsbD (i / 8)) := by
  induction n with
  | zero => simp
  | succ n ih =>
    rw [List.range_succ, List.foldl_append, List.foldl_cons, List.foldl_nil]
    have before := ih (Nat.le_of_succ_le hn)
    have oneMore : i < 8 * (n + 1) ↔ i < 8 * n ∨ i / 8 = n := by omega
    by_cases lane : i / 8 = n <;> split <;> rename_i selected
    · simp [before, getLsbD_lane hn, oneMore, lane, selected]
    · simp [before, oneMore, lane, selected]
    · simp [before, getLsbD_lane hn, oneMore, lane]
    · simp [before, oneMore, lane]

/-- Bit i of the mask is the bit of its lane (R2). -/
theorem getLsbD_laneMask (lanes : BitVec 8) {i : Nat} (hi : i < 64) : (laneMask lanes).getLsbD i = lanes.getLsbD (i / 8) := by
  unfold laneMask
  rw [getLsbD_foldl_laneMask lanes 8 i (Nat.le_refl 8)]
  simp [hi]

/-- A merged word has the new byte in each set lane and the old one in each clear lane (R11). -/
theorem extractLsb'_mergeBytes (lanes : BitVec 8) (new old : DataWord) {b : Nat} (hb : b < 8) :
    (mergeBytes lanes new old).extractLsb' (8 * b) 8
      = if lanes.getLsbD b then new.extractLsb' (8 * b) 8 else old.extractLsb' (8 * b) 8 := by
  ext j hj
  have inWord : 8 * b + j < 64 := by omega
  have lane : (8 * b + j) / 8 = b := by omega
  have mask := getLsbD_laneMask lanes inWord
  rw [lane, BitVec.getLsbD_eq_getElem inWord] at mask
  cases selected : lanes.getLsbD b <;> rw [selected] at mask <;> simp [mergeBytes, mask, inWord]

/-! ### Line Writes (R10 to R13) -/

/-- What a Line Write makes of a word in the source line or in the target line: the settled word, or the word as it was. -/
theorem read_lineWriteEffect (m : Memory) (source : Nat) (target : Option Nat) (ws : List WordWrite) (short : ws.length ≤ 8)
    {l i : Nat} (hi : i < ws.length) (reached : l = source ∨ target = some l) :
    (m.writeAll (lineWriteEffect m source target ws).writes).read (wordKey l i)
      = match settleWord (m.read (wordKey source i)) ws[i] with
        | some v => v.1
        | none => m.read (wordKey l i) := by
  have named (p : Nat × StoredWord) (inside : p ∈ (lineWriteEffect m source target ws).writes) (key : p.1 = wordKey l i) :
      ∃ v, settleWord (m.read (wordKey source i)) ws[i] = some v ∧ p.2 = v.1 := by
    obtain ⟨j, hj, v, settled, rfl | ⟨t, _, rfl⟩⟩ := (mem_lineWriteEffect_writes ..).1 inside
    all_goals
      obtain ⟨_, rfl⟩ := wordKey_inj (hj.trans_le short) (hi.trans_le short) key
      exact ⟨v, settled, rfl⟩
  split
  · rename_i v settled
    refine Memory.read_writeAll_of_mem _ _ _ _ (fun p inside key => ?_) ⟨(wordKey l i, v.1), ?_, rfl⟩
    · obtain ⟨v', settled', same⟩ := named p inside key
      rw [settled] at settled'
      cases settled'
      exact same
    · refine (mem_lineWriteEffect_writes ..).2 ⟨i, hi, v, settled, ?_⟩
      rcases reached with rfl | targeted
      · exact .inl rfl
      · exact .inr ⟨l, targeted, rfl⟩
  · rename_i untouched
    refine Memory.read_writeAll_of_notMem _ _ _ fun p inside key => ?_
    obtain ⟨v, settled, _⟩ := named p inside key
    rw [untouched] at settled
    cases settled

/-- A Line Write leaves every line but the source and the target as it was. -/
theorem read_lineWriteEffect_otherLine (m : Memory) (source : Nat) (target : Option Nat) (ws : List WordWrite)
    (short : ws.length ≤ 8) {l w : Nat} (hw : w < 8) (notSource : l ≠ source) (notTarget : target ≠ some l) :
    (m.writeAll (lineWriteEffect m source target ws).writes).read (wordKey l w) = m.read (wordKey l w) := by
  refine Memory.read_writeAll_of_notMem _ _ _ fun p inside key => ?_
  obtain ⟨j, hj, v, _, rfl | ⟨t, targeted, rfl⟩⟩ := (mem_lineWriteEffect_writes ..).1 inside
  · exact notSource (wordKey_inj (hj.trans_le short) hw key).1.symm
  · exact notTarget (targeted.trans (congrArg some (wordKey_inj (hj.trans_le short) hw key).1))

theorem settleWord_eq_none_iff (old : StoredWord) (w : WordWrite) : settleWord old w = none ↔ w.lanes = 0#8 := by
  unfold settleWord
  split
  · simp_all
  · rename_i someLane
    split
    · split <;> simp [someLane]
    · split <;> simp [someLane]

/-- A whole word takes the new data, or POISON where the marker is set, with no decode (R10). -/
theorem settleWord_whole (old : StoredWord) (w : WordWrite) (whole : w.lanes = 0xFF#8) :
    settleWord old w = some (if w.marker then (.poison, none, .poison) else (.clean w.data, none, .clean)) := by
  simp only [settleWord, whole]
  cases w.marker <;> rfl

/-- A merged word is decoded, and takes the new bytes into the old data or becomes POISON (R11, R12). -/
theorem settleWord_merged (old : StoredWord) (w : WordWrite) (someLane : w.lanes ≠ 0#8) (notWhole : w.lanes ≠ 0xFF#8) :
    settleWord old w = some (match old with
      | .clean d | .single d _ => (.clean (mergeBytes w.lanes w.data d), some (decodeWord old), .clean)
      | .multi _ | .poison => (.poison, some (decodeWord old), .poison)) := by
  simp only [settleWord, if_neg someLane, if_neg notWhole]
  cases old <;> rfl

/-- The reports of a Line Write: the index, decode and outcome of each settled word (R7). -/
theorem mem_lineWriteEffect_reports (m : Memory) (source : Nat) (target : Option Nat) (ws : List WordWrite)
    (r : WordReport) (inside : r ∈ (lineWriteEffect m source target ws).reports) :
    ∃ h : r.index < ws.length, ∃ v, settleWord (m.read (wordKey source r.index)) ws[r.index]
      = some (v, r.decoded, r.written) := by
  simp only [lineWriteEffect, settledWords, List.mem_map, List.mem_filterMap, List.mem_zipIdx_iff_getElem?,
    Option.map_eq_some_iff] at inside
  obtain ⟨_, ⟨⟨w, i⟩, place, ⟨v, d, o⟩, settled, rfl⟩, rfl⟩ := inside
  replace place : ws[i]? = some w := place
  obtain ⟨hi, rfl⟩ := List.getElem?_eq_some_iff.1 place
  exact ⟨hi, v, settled⟩

/-- A Line Write reports the words with a lane set, in index order (R7). -/
theorem lineWriteEffect_indices (m : Memory) (source : Nat) (target : Option Nat) (ws : List WordWrite) :
    (lineWriteEffect m source target ws).reports.map (·.index)
      = (List.range ws.length).filter (fun i => !((ws.getD i ⟨0#8, 0#64, false⟩).lanes == 0#8)) := by
  have indexed : ws.zipIdx = (List.range ws.length).map fun i => (ws.getD i ⟨0#8, 0#64, false⟩, i) := by
    apply List.ext_getElem <;> simp
    intro i hi
    simp [hi]
  simp only [lineWriteEffect, settledWords, indexed, List.filterMap_map, List.map_filterMap]
  rw [← List.filterMap_eq_filter]
  refine List.filterMap_congr fun i _ => ?_
  dsimp only [Function.comp, Option.guard]
  have clear := settleWord_eq_none_iff (m.read (wordKey source i)) (ws.getD i ⟨0#8, 0#64, false⟩)
  cases settled : settleWord (m.read (wordKey source i)) (ws.getD i ⟨0#8, 0#64, false⟩) with
  | none => simp [clear.1 settled, -List.getD_eq_getElem?_getD]
  | some v =>
    rw [settled] at clear
    simp [mt clear.2, -List.getD_eq_getElem?_getD]

/-- Settles O7: each word as `settleWord` makes it of the source word, in both lines alike, and its report. -/
theorem lineWriteSettlesEachWord : Obligations.LineWriteSettlesEachWord := by
  refine ⟨fun m source target ws full notSource => ⟨fun i hi => ⟨fun clear => ?_, fun someLane t targeted => ?_, fun whole => ?_,
    fun someLane notWhole => ?_⟩, ?_⟩, fun m source target ws => ⟨lineWriteEffect_indices .., fun r inside => ?_⟩⟩
  · have untouched := (settleWord_eq_none_iff (m.read (wordKey source i)) ws[i]).2 clear
    refine ⟨?_, fun t targeted => ?_⟩
    · rw [read_lineWriteEffect m source target ws full.le hi (.inl rfl), untouched]
    · rw [read_lineWriteEffect m source target ws full.le hi (.inr targeted), untouched]
  · rw [read_lineWriteEffect m source target ws full.le hi (.inr targeted),
      read_lineWriteEffect m source target ws full.le hi (.inl rfl)]
    cases settled : settleWord (m.read (wordKey source i)) ws[i] with
    | none => exact absurd ((settleWord_eq_none_iff ..).1 settled) someLane
    | some v => rfl
  · rw [read_lineWriteEffect m source target ws full.le hi (.inl rfl), settleWord_whole _ _ whole]
    cases ws[i].marker <;> rfl
  · rw [read_lineWriteEffect m source target ws full.le hi (.inl rfl), settleWord_merged _ _ someLane notWhole]
    cases m.read (wordKey source i) with
    | clean old | single old _ => exact ⟨_, rfl, fun b hb => extractLsb'_mergeBytes _ _ _ hb⟩
    | multi _ | poison => rfl
  · exact fun l w hw notSource notTarget =>
      read_lineWriteEffect_otherLine m source target ws full.le hw notSource notTarget
  · obtain ⟨hi, v, settled⟩ := mem_lineWriteEffect_reports m source target ws r inside
    refine ⟨hi, fun whole => ?_, fun notWhole => ?_⟩
    · rw [settleWord_whole _ _ whole] at settled
      cases marker : ws[r.index].marker <;> simp_all
    · have someLane : ws[r.index].lanes ≠ 0#8 := fun clear => by
        rw [(settleWord_eq_none_iff ..).2 clear] at settled
        cases settled
      rw [settleWord_merged _ _ someLane notWhole] at settled
      cases old : m.read (wordKey source r.index) <;> rw [old] at settled <;>
        simp only [Option.some.injEq, Prod.mk.injEq] at settled <;>
        exact ⟨settled.2.1.symm, settled.2.2.symm⟩

end Sys2Proof.Machine
end

section
/-!
Routing (R50 to R55): which lines back which, and how the copy below a migration's cursor follows its source. Settled here:
O13.
-/

namespace Sys2Proof.Machine

/-! ### Remap Table entries -/

theorem Tables.entryOf_some {t : Tables} {frame : Nat} {e : RemapEntry} (h : t.entryOf frame = some e) :
    e ∈ t.remap ∧ e.frame = frame :=
  ⟨List.mem_of_find?_eq_some h, by simpa using List.find?_some h⟩

/-- A frame has its one entry (R51). -/
theorem Tables.Consistent.entryOf_eq {t : Tables} (h : t.Consistent) {e : RemapEntry} (inside : e ∈ t.remap) :
    t.entryOf e.frame = some e := by
  cases found : t.entryOf e.frame with
  | none =>
    have absent := List.find?_eq_none.1 found e inside
    simp at absent
  | some d =>
    obtain ⟨member, same⟩ := Tables.entryOf_some found
    rw [List.inj_on_of_nodup_map h.frames member inside same]

/-- A spare is named by one entry (R51). -/
theorem Tables.Consistent.entry_unique {t : Tables} (h : t.Consistent) {d e : RemapEntry} (hd : d ∈ t.remap)
    (he : e ∈ t.remap) {k : Nat} (dNames : k ∈ d.state.spares) (eNames : k ∈ e.state.spares) : d = e := by
  by_contra differ
  have disjoint := (List.nodup_flatMap.1 h.named).2
  have : Std.Symm (Function.onFun List.Disjoint fun e : RemapEntry => e.state.spares) := ⟨fun _ _ => List.Disjoint.symm⟩
  exact disjoint.forall hd he differ dNames eNames

theorem RemapState.current_mem_spares {st : RemapState} {k : Nat} (h : st.current? = some k) : k ∈ st.spares := by
  rcases st with c | ⟨_ | c, t, m⟩ <;> cases h <;> simp [RemapState.spares]

theorem RemapState.target_mem_spares {st : RemapState} {k : Nat} (h : st.target? = some k) : k ∈ st.spares := by
  rcases st with c | ⟨_ | c, t, m⟩ <;> cases h <;> simp [RemapState.spares]

/-- No spare is the current spare of one entry and the target of another (R51). -/
theorem Tables.Consistent.current_ne_target {t : Tables} (h : t.Consistent) {d e : RemapEntry} (hd : d ∈ t.remap)
    (he : e ∈ t.remap) {j k : Nat} (current : d.state.current? = some j) (target : e.state.target? = some k) : j ≠ k := by
  rintro rfl
  have assigned := (h.assigned j).2 ⟨d, hd, current⟩
  rw [(h.target j).2 ⟨e, he, target⟩] at assigned
  cases assigned

/-! ### Source and target frames (R52) -/

/-- The current spare of a host frame, if it has one. -/
def Tables.currentOf (t : Tables) (frame : Nat) : Option Nat := (t.entryOf frame).bind (·.state.current?)

/-- The target spare of a host frame, if it migrates. -/
def Tables.targetOf (t : Tables) (frame : Nat) : Option Nat := (t.entryOf frame).bind (·.state.target?)

/-- A host frame's own frame, or spare k's, is its source (R52). -/
theorem State.backing_source (s : State) (frame : Nat) :
    (s.backing frame).source = ((s.tables.currentOf frame).map s.spareFrame).getD frame := by
  unfold State.backing Tables.currentOf
  rcases s.tables.entryOf frame with _ | ⟨_, c | ⟨_ | c, t, m⟩⟩ <;> rfl

theorem State.backing_target (s : State) (frame : Nat) :
    (s.backing frame).target = (s.tables.targetOf frame).map s.spareFrame := by
  unfold State.backing Tables.targetOf
  rcases s.tables.entryOf frame with _ | ⟨_, c | ⟨_ | c, t, m⟩⟩ <;> rfl

/-- The backing of a frame whose entry migrates (R52). -/
theorem State.backing_migrating (s : State) {frame target cursor : Nat} {current : Option Nat}
    (entry : s.tables.entryOf frame = some ⟨frame, .migrating current target cursor⟩) :
    s.backing frame = ⟨(current.map s.spareFrame).getD frame, some (s.spareFrame target), cursor⟩ := by
  unfold State.backing
  rw [entry]
  cases current <;> rfl

theorem State.sourceLine_eq (s : State) (line : Nat) : s.sourceLine line
    = ((s.tables.currentOf (line / 64)).map s.spareFrame).getD (line / 64) * 64 + line % 64 := by
  rw [State.sourceLine, State.backing_source]

theorem State.targetLine_some {s : State} {line p : Nat} (h : s.targetLine line = some p) :
    ∃ k, s.tables.targetOf (line / 64) = some k ∧ p = s.spareFrame k * 64 + line % 64 := by
  rw [State.targetLine, State.backing_target, Option.map_map, Option.map_eq_some_iff] at h
  obtain ⟨k, target, rfl⟩ := h
  exact ⟨k, target, rfl⟩

/-- The second line of a Line Write is the target line (R54). -/
theorem State.dualLine_some {s : State} {line p : Nat} (h : s.dualLine line = some p) : s.targetLine line = some p := by
  unfold State.dualLine at h
  split at h
  · exact h
  · cases h

section
variable {s : State} (tables : s.tables.Consistent)
include tables

theorem State.currentOf_inj {f g k : Nat} (hf : s.tables.currentOf f = some k) (hg : s.tables.currentOf g = some k) :
    f = g := by
  obtain ⟨d, foundD, currentD⟩ := Option.bind_eq_some_iff.1 hf
  obtain ⟨e, foundE, currentE⟩ := Option.bind_eq_some_iff.1 hg
  obtain ⟨hd, rfl⟩ := Tables.entryOf_some foundD
  obtain ⟨he, rfl⟩ := Tables.entryOf_some foundE
  rw [tables.entry_unique hd he (RemapState.current_mem_spares currentD) (RemapState.current_mem_spares currentE)]

theorem State.targetOf_inj {f g k : Nat} (hf : s.tables.targetOf f = some k) (hg : s.tables.targetOf g = some k) :
    f = g := by
  obtain ⟨d, foundD, targetD⟩ := Option.bind_eq_some_iff.1 hf
  obtain ⟨e, foundE, targetE⟩ := Option.bind_eq_some_iff.1 hg
  obtain ⟨hd, rfl⟩ := Tables.entryOf_some foundD
  obtain ⟨he, rfl⟩ := Tables.entryOf_some foundE
  rw [tables.entry_unique hd he (RemapState.target_mem_spares targetD) (RemapState.target_mem_spares targetE)]

/-- Two host lines have different source lines (R51 to R53). -/
theorem State.sourceLine_inj {a b : Nat} (ha : a < s.straps.hostLines) (hb : b < s.straps.hostLines)
    (same : s.sourceLine a = s.sourceLine b) : a = b := by
  rw [State.sourceLine_eq, State.sourceLine_eq] at same
  have frameA := Straps.frame_lt ha
  have frameB := Straps.frame_lt hb
  cases currentA : s.tables.currentOf (a / 64) with
  | none =>
    cases currentB : s.tables.currentOf (b / 64) with
    | none => simp only [currentA, currentB, Option.map_none, Option.getD_none] at same; omega
    | some k =>
      simp only [currentA, currentB, Option.map_none, Option.getD_none, Option.map_some, Option.getD_some,
        State.spareFrame] at same
      omega
  | some j =>
    cases currentB : s.tables.currentOf (b / 64) with
    | none =>
      simp only [currentA, currentB, Option.map_none, Option.getD_none, Option.map_some, Option.getD_some,
        State.spareFrame] at same
      omega
    | some k =>
      simp only [currentA, currentB, Option.map_some, Option.getD_some, State.spareFrame] at same
      obtain rfl : j = k := by omega
      have frames := State.currentOf_inj tables currentA currentB
      omega

/-- No migration target backs a host line (R51, R52). -/
theorem State.targetLine_ne_sourceLine {a b p : Nat} (hb : b < s.straps.hostLines) (target : s.targetLine a = some p) :
    p ≠ s.sourceLine b := by
  obtain ⟨k, targetA, rfl⟩ := State.targetLine_some target
  rw [State.sourceLine_eq]
  have frameB := Straps.frame_lt hb
  cases currentB : s.tables.currentOf (b / 64) with
  | none =>
    simp only [Option.map_none, Option.getD_none, State.spareFrame]
    omega
  | some j =>
    obtain ⟨d, foundD, targetD⟩ := Option.bind_eq_some_iff.1 targetA
    obtain ⟨e, foundE, currentE⟩ := Option.bind_eq_some_iff.1 currentB
    have differ := tables.current_ne_target (Tables.entryOf_some foundE).1 (Tables.entryOf_some foundD).1 currentE targetD
    simp only [Option.map_some, Option.getD_some, State.spareFrame]
    omega

/-- Two host lines have different target lines (R51, R52). -/
theorem State.targetLine_inj {a b p : Nat} (ha : s.targetLine a = some p) (hb : s.targetLine b = some p) : a = b := by
  obtain ⟨j, targetA, rfl⟩ := State.targetLine_some ha
  obtain ⟨k, targetB, same⟩ := State.targetLine_some hb
  simp only [State.spareFrame] at same
  obtain rfl : j = k := by omega
  have frames := State.targetOf_inj tables targetA targetB
  omega

end

/-! ### A line below the cursor -/

/-- Line `line` lies in a migrating frame; `target` is its line in the target spare. -/
structure State.Migrates (s : State) (line cursor target : Nat) : Prop where
  inHost : line < s.straps.hostLines
  targetLine : s.targetLine line = some target
  cursor : (s.backing (line / 64)).cursor = cursor

section
variable {s : State} (tables : s.tables.Consistent) (range : s.RemapInRange)
include tables range

/-- A line of a frame whose entry migrates. -/
theorem State.migrates_of_entry {frame target cursor l : Nat} {current : Option Nat}
    (entry : (⟨frame, .migrating current target cursor⟩ : RemapEntry) ∈ s.tables.remap) (hl : l < 64) :
    s.Migrates (frame * 64 + l) cursor (s.spareFrame target * 64 + l) := by
  have backing := s.backing_migrating (tables.entryOf_eq entry)
  have inHost := range.frames _ entry
  have lineFrame : (frame * 64 + l) / 64 = frame := by omega
  have lineInFrame : (frame * 64 + l) % 64 = l := by omega
  refine ⟨?_, ?_, ?_⟩
  · unfold Straps.hostLines
    dsimp only at inHost
    omega
  · rw [State.targetLine, lineFrame, lineInFrame, backing]
    rfl
  · rw [lineFrame, backing]

end

/-- What the copy of a line holds follows what the line holds: word by word it is what a Copy Step makes of it. -/
def Memory.Mirrors (m : Memory) (source target : Nat) : Prop :=
  ∀ w < 8, m.read (wordKey target w) = (copiedWord (m.read (wordKey source w))).1

/-- Below the cursor every line is mirrored. -/
theorem State.MirrorsBelowCursor.mirrors {s : State} (h : s.MirrorsBelowCursor) {frame target cursor l : Nat}
    {current : Option Nat} (entry : (⟨frame, .migrating current target cursor⟩ : RemapEntry) ∈ s.tables.remap)
    (below : l < cursor) (hl : l < 64) :
    s.memory.Mirrors (s.sourceLine (frame * 64 + l)) (s.spareFrame target * 64 + l) :=
  h frame current target cursor entry l below hl

theorem Memory.Mirrors.congr {m m' : Memory} {source target : Nat} (h : m.Mirrors source target)
    (sameSource : ∀ w < 8, m'.read (wordKey source w) = m.read (wordKey source w))
    (sameTarget : ∀ w < 8, m'.read (wordKey target w) = m.read (wordKey target w)) : m'.Mirrors source target :=
  fun w hw => by rw [sameSource w hw, sameTarget w hw, h w hw]

/-- A settled word is CLEAN or POISON, which a Copy Step copies as they are. -/
theorem copiedWord_settleWord (old : StoredWord) (w : WordWrite) (v) (settled : settleWord old w = some v) :
    (copiedWord v.1).1 = v.1 := by
  unfold settleWord at settled
  repeat' split at settled
  all_goals cases settled
  all_goals rfl

/-- A Copy Step makes the same of a repaired word as of the word itself. -/
theorem copiedWord_repairWord (option : Bool) (w : StoredWord) :
    (copiedWord (repairWord option w).1).1 = (copiedWord w).1 := by
  cases w with
  | clean _ | single _ _ | poison => rfl
  | multi _ => cases option <;> rfl

/-- A Line Write that reaches the source and the copy alike keeps the copy a mirror (R54). -/
theorem Memory.Mirrors.lineWrite {m : Memory} {source target : Nat} (h : m.Mirrors source target) (ws : List WordWrite)
    (full : ws.length = 8) : (m.writeAll (lineWriteEffect m source (some target) ws).writes).Mirrors source target := by
  intro w hw
  have hi : w < ws.length := full ▸ hw
  rw [read_lineWriteEffect m source (some target) ws full.le hi (.inr rfl),
    read_lineWriteEffect m source (some target) ws full.le hi (.inl rfl)]
  cases settled : settleWord (m.read (wordKey source w)) ws[w] with
  | none => exact h w hw
  | some v => exact (copiedWord_settleWord _ _ v settled).symm

/-- A Repair Read of the source keeps the copy a mirror (R53). -/
theorem Memory.Mirrors.repairRead {m : Memory} {source target : Nat} (h : m.Mirrors source target) (option : Bool)
    (differ : target ≠ source) : (m.writeAll (repairReadEffect m source option).writes).Mirrors source target := by
  intro w hw
  rw [read_repairReadEffect m source option hw, read_repairReadEffect_otherLine m source option hw differ,
    copiedWord_repairWord]
  exact h w hw

/-- A Copy Step makes the copy a mirror (R15). -/
theorem Memory.mirrors_copyStep (m : Memory) {source target : Nat} (differ : source ≠ target) :
    (m.writeAll (copyStepEffect m source target).writes).Mirrors source target := by
  intro w hw
  rw [read_copyStepEffect m source target hw, read_copyStepEffect_otherLine m source target hw differ]

/-! ### The tenures -/

section
variable {s : State} (tables : s.tables.Consistent) (range : s.RemapInRange) (mirrors : s.MirrorsBelowCursor)
include tables range mirrors

/-- Line Writes reach the copy below the cursor (R54). -/
theorem State.lineWrite_mirrorsBelowCursor {line : Nat} (ws : List WordWrite) (inHost : line < s.straps.hostLines)
    (full : ws.length = 8) :
    (s.withMemory (s.memory.writeAll (s.writeEffect line ws).writes)).MirrorsBelowCursor := by
  intro frame current target cursor entry l below hl
  have mirrored := mirrors.mirrors entry below hl
  have copied := State.migrates_of_entry tables range entry hl
  show (s.memory.writeAll (s.writeEffect line ws).writes).Mirrors (s.sourceLine (frame * 64 + l))
    (s.spareFrame target * 64 + l)
  by_cases same : line = frame * 64 + l
  · subst same
    have dual : s.dualLine (frame * 64 + l) = some (s.spareFrame target * 64 + l) := by
      rw [State.dualLine, copied.cursor, if_pos (by omega), copied.targetLine]
    rw [State.writeEffect, dual]
    exact mirrored.lineWrite ws full
  · refine mirrored.congr (fun w hw => ?_) fun w hw => ?_
    · refine read_lineWriteEffect_otherLine _ _ _ _ full.le hw (fun shared => same ?_) fun dual => ?_
      · exact State.sourceLine_inj tables inHost copied.inHost shared.symm
      · exact State.targetLine_ne_sourceLine tables copied.inHost (State.dualLine_some dual) rfl
    · refine read_lineWriteEffect_otherLine _ _ _ _ full.le hw ?_ fun dual => same ?_
      · exact State.targetLine_ne_sourceLine tables inHost copied.targetLine
      · exact State.targetLine_inj tables (State.dualLine_some dual) copied.targetLine

/-- Repair Reads mend the source to what its copy already holds (R53). -/
theorem State.repairRead_mirrorsBelowCursor {line : Nat} (option : Bool) (inHost : line < s.straps.hostLines) :
    (s.withMemory (s.memory.writeAll (s.repairEffect line option).writes)).MirrorsBelowCursor := by
  intro frame current target cursor entry l below hl
  have mirrored := mirrors.mirrors entry below hl
  have copied := State.migrates_of_entry tables range entry hl
  have differ {line : Nat} (inHost : line < s.straps.hostLines) : s.spareFrame target * 64 + l ≠ s.sourceLine line :=
    State.targetLine_ne_sourceLine tables inHost copied.targetLine
  show (s.memory.writeAll (s.repairEffect line option).writes).Mirrors (s.sourceLine (frame * 64 + l))
    (s.spareFrame target * 64 + l)
  by_cases same : line = frame * 64 + l
  · subst same
    exact mirrored.repairRead option (differ inHost)
  · refine mirrored.congr (fun w hw => ?_) fun w hw => ?_
    · refine read_repairReadEffect_otherLine _ _ _ hw fun shared => same ?_
      exact State.sourceLine_inj tables inHost copied.inHost shared.symm
    · exact read_repairReadEffect_otherLine _ _ _ hw (differ inHost)

/-- After the Copy Step at the cursor, the copy mirrors the source up to and with the cursor's line (R15, R55). -/
theorem State.copyStep_mirrors {frame target cursor : Nat} {current : Option Nat}
    (entry : (⟨frame, .migrating current target cursor⟩ : RemapEntry) ∈ s.tables.remap) (inFrame : cursor < 64) {l : Nat}
    (upTo : l ≤ cursor) :
    (s.memory.writeAll (s.copyEffect (frame * 64 + cursor)).writes).Mirrors (s.sourceLine (frame * 64 + l))
      (s.spareFrame target * 64 + l) := by
  have hl : l < 64 := Nat.lt_of_le_of_lt upTo inFrame
  have copied := State.migrates_of_entry tables range entry hl
  have atCursor := State.migrates_of_entry tables range entry inFrame
  have differ := (State.targetLine_ne_sourceLine tables copied.inHost atCursor.targetLine).symm
  rw [State.copyEffect, atCursor.targetLine]
  rcases Nat.lt_or_eq_of_le upTo with below | rfl
  · refine (mirrors.mirrors entry below hl).congr (fun w hw => ?_) fun w hw => ?_
    · exact read_copyStepEffect_otherLine _ _ _ hw differ
    · exact read_copyStepEffect_otherLine _ _ _ hw (by omega)
  · exact s.memory.mirrors_copyStep differ

omit mirrors in
/-- The source is left as it was by the Copy Step at the cursor (R15). -/
theorem State.copyStep_source {frame target cursor : Nat} {current : Option Nat}
    (entry : (⟨frame, .migrating current target cursor⟩ : RemapEntry) ∈ s.tables.remap) (inFrame : cursor < 64) {l w : Nat}
    (hl : l < 64) (hw : w < 8) :
    (s.memory.writeAll (s.copyEffect (frame * 64 + cursor)).writes).read (wordKey (s.sourceLine (frame * 64 + l)) w)
      = s.memory.read (wordKey (s.sourceLine (frame * 64 + l)) w) := by
  have atCursor := State.migrates_of_entry tables range entry inFrame
  rw [State.copyEffect, atCursor.targetLine]
  exact read_copyStepEffect_otherLine _ _ _ hw (State.targetLine_ne_sourceLine tables
    (State.migrates_of_entry tables range entry hl).inHost atCursor.targetLine).symm

end

/-! ### The cursor's advance and the cut-over -/

theorem Tables.entryOf_putEntry (t : Tables) (frame : Nat) (st : RemapState) :
    (t.putEntry frame st).entryOf frame = some ⟨frame, st⟩ := by
  simp [Tables.entryOf, Tables.putEntry]

theorem Tables.cursorOf_migrating {t : Tables} {frame target cursor : Nat} {current : Option Nat}
    (entry : t.entryOf frame = some ⟨frame, .migrating current target cursor⟩) : t.cursorOf frame = cursor := by
  unfold Tables.cursorOf
  rw [entry]

theorem Tables.cutOver_entryOf (t : Tables) (m : MigrationRecord) :
    (t.cutOver m).entryOf m.frame = some ⟨m.frame, .active m.target⟩ := by
  unfold Tables.cutOver Tables.failOld
  split <;> exact Tables.entryOf_putEntry ..

/-- The Migration Unit has one MIGRATING entry: that of its record (R51). -/
theorem Tables.Consistent.migrating_entry {t : Tables} (h : t.Consistent) {m : MigrationRecord}
    (copying : t.migration = some m) {frame target cursor : Nat} {current : Option Nat}
    (entry : (⟨frame, .migrating current target cursor⟩ : RemapEntry) ∈ t.remap) : frame = m.frame := by
  obtain ⟨m', copying', same⟩ := h.entry _ entry rfl
  cases copying.symm.trans copying'
  exact same.symm

section
variable {s : State} (tables : s.tables.Consistent) (range : s.RemapInRange) (mirrors : s.MirrorsBelowCursor)
  {m : MigrationRecord} (copying : s.tables.migration = some m)
include tables range mirrors copying

/-- After the Copy Step at the cursor the cursor may advance (R76). -/
theorem State.advanceCursor_mirrorsBelowCursor :
    ((s.withMemory (s.memory.writeAll (s.copyEffect (m.frame * 64 + s.tables.cursorOf m.frame)).writes)).advanceCursor
      m).MirrorsBelowCursor := by
  obtain ⟨cursor, inFrame, entry⟩ := tables.unit m copying
  have found := tables.entryOf_eq entry
  rw [Tables.cursorOf_migrating found]
  intro frame current target cursor' advanced l below hl
  simp only [State.advanceCursor, State.withMemory_tables, State.withTables_tables, Tables.cursorOf_migrating found,
    Tables.putEntry, List.mem_cons, List.mem_filter] at advanced
  rcases advanced with same | ⟨other, notSame⟩
  · cases same
    have sameSource : State.sourceLine ((s.withMemory (s.memory.writeAll
        (s.copyEffect (m.frame * 64 + cursor)).writes)).advanceCursor m) (m.frame * 64 + l)
          = s.sourceLine (m.frame * 64 + l) := by
      have lineFrame : (m.frame * 64 + l) / 64 = m.frame := by omega
      rw [State.sourceLine, State.sourceLine, lineFrame, s.backing_migrating found,
        State.backing_migrating _ (Tables.entryOf_putEntry s.tables m.frame _)]
      rfl
    intro w hw
    rw [sameSource]
    exact State.copyStep_mirrors tables range mirrors entry inFrame (Nat.le_of_lt_succ below) w hw
  · exact absurd (tables.migrating_entry copying other) (by simpa using notSame)

/-- After the Copy Step at line 63 the whole frame reads from the target as it read from its source (R78). -/
theorem State.cutOver_reads (last : s.tables.cursorOf m.frame = 63) {l w : Nat} (hl : l < 64) (hw : w < 8) :
    let u := s.withMemory (s.memory.writeAll (s.copyEffect (m.frame * 64 + s.tables.cursorOf m.frame)).writes)
    u.memory.read (wordKey ((u.withTables (s.tables.cutOver m)).sourceLine (m.frame * 64 + l)) w)
      = (copiedWord (s.memory.read (wordKey (s.sourceLine (m.frame * 64 + l)) w))).1 := by
  obtain ⟨cursor, inFrame, entry⟩ := tables.unit m copying
  have found := tables.entryOf_eq entry
  rw [Tables.cursorOf_migrating found] at last ⊢
  subst last
  intro u
  have lineFrame : (m.frame * 64 + l) / 64 = m.frame := by omega
  have lineInFrame : (m.frame * 64 + l) % 64 = l := by omega
  have current : ((u.withTables (s.tables.cutOver m)).tables).currentOf m.frame = some m.target := by
    rw [State.withTables_tables, Tables.currentOf, Tables.cutOver_entryOf]
    rfl
  rw [State.sourceLine_eq (u.withTables _), lineFrame, lineInFrame, current]
  exact (State.copyStep_mirrors tables range mirrors entry inFrame (Nat.le_of_lt_succ hl) w hw).trans
    (by rw [State.copyStep_source tables range entry inFrame hl hw])

end

/-- Settles O13: every tenure keeps the copy below the cursor a mirror, so the cursor may advance and the frame cut over. -/
theorem migrationLosesNoWrite : Obligations.MigrationLosesNoWrite := by
  refine ⟨fun word => by cases word <;> rfl, fun s m current target cursor entry => ⟨?_, ?_, rfl, ?_⟩,
    fun s tables range mirrors => ⟨?_, ?_, fun m copying => ⟨fun _ => ?_, fun last l hl w hw => ?_⟩⟩⟩
  · exact Tables.cursorOf_migrating entry
  · rw [State.advanceCursor, Tables.cursorOf_migrating entry]
    rfl
  · unfold Tables.cutOver Tables.failOld
    cases m.old <;> rfl
  · exact fun line ws inHost full => State.lineWrite_mirrorsBelowCursor tables range mirrors ws inHost full
  · exact fun line option inHost => State.repairRead_mirrorsBelowCursor tables range mirrors option inHost
  · exact State.advanceCursor_mirrorsBelowCursor tables range mirrors copying
  · exact State.cutOver_reads tables range mirrors copying last hl hw

end Sys2Proof.Machine
end

section
/-!
What the grant of each requester does (R21, R31, R36, R52 to R55, R75, R102, R111, R129, R148 to R154). Settled here: O15.
-/

namespace Sys2Proof.Machine

/-! ### Reads of whole lines -/

/-- A tenure that reads leaves memory as it is. -/
theorem State.beginTenure_read (s : State) (work : Work) (line l : Nat) (mask : BitVec 8) :
    s.beginTenure work line (s.readEffect l mask) = s.withArbiter { s.arbiter with
      tenure := some ⟨work, line, (s.readEffect l mask).reports, false⟩ } := rfl

/-- The reports of a read of all 8 words of a host line. -/
def State.wholeLine (s : State) (line : Nat) : List WordReport :=
  (List.range 8).map fun w => ⟨w, some (decodeWord (s.memory.read (wordKey (s.sourceLine line) w))), .unchanged⟩

theorem State.readEffect_wholeLine (s : State) (line : Nat) : (s.readEffect line 0xFF#8).reports = s.wholeLine line := by
  have all : ((List.range 8).filter fun w => (0xFF#8).getLsbD w) = List.range 8 := by decide
  simp only [State.readEffect, lineReadEffect, all, State.wholeLine]

theorem State.beginTenure_wholeLine (s : State) (work : Work) (line : Nat) :
    s.beginTenure work line (s.readEffect line 0xFF#8)
      = s.withArbiter { s.arbiter with tenure := some ⟨work, line, s.wholeLine line, false⟩ } := by
  rw [State.beginTenure_read, State.readEffect_wholeLine]

/-! ### PORT (R31) -/

/-- A held read is blocked exactly by a buffered write of its line (R30). -/
theorem Port.blocked_iff (q : Port) (line : Nat) : q.blocked line = true ↔ ∃ m d, .memory line m d ∈ q.buffer := by
  simp only [Port.blocked, List.any_eq_true]
  constructor
  · rintro ⟨⟨l, m, d⟩ | _, inside, same⟩
    · obtain rfl : l = line := by simpa [PostEntry.isFor] using same
      exact ⟨m, d, inside⟩
    · cases same
  · rintro ⟨m, d, inside⟩
    exact ⟨_, inside, by simp [PostEntry.isFor]⟩

theorem Port.work_read {q : Port} {line : Nat} {mask : BitVec 8} (held : q.held = .readHeld line mask)
    (unblocked : ∀ m d, .memory line m d ∉ q.buffer) (room : q.buffer.length < 8) : q.work = some (.read line mask) := by
  have notBlocked : ¬ q.blocked line = true := by
    rw [Port.blocked_iff]
    rintro ⟨m, d, inside⟩
    exact unblocked m d inside
  simp only [Port.work, held, if_neg notBlocked, if_pos room]

theorem Port.work_drain {q : Port} {l : Nat} {m : BitVec 64} {d : BitVec 512} {rest : List PostEntry}
    (buffer : q.buffer = .memory l m d :: rest)
    (waits : ∀ k v, q.held = .readHeld k v → (∃ m d, .memory k m d ∈ q.buffer) ∨ 8 ≤ q.buffer.length) :
    q.work = some (.drain l m d) := by
  have drain : q.drainWork = some (.drain l m d) := by simp only [Port.drainWork, buffer]
  unfold Port.work
  split
  · rename_i k v held
    split
    · exact drain
    · rename_i unblocked
      rw [if_neg (Nat.not_lt_of_le ((waits k v held).resolve_left (mt (q.blocked_iff k).2 unblocked)))]
      exact drain
  all_goals exact drain

/-! ### MIGRATION (R75) and RING (R21) -/

/-- The Copy Step of a line whose frame's entry migrates goes from source to target (R55). -/
theorem State.copyEffect_migrating (s : State) {frame target cursor l : Nat} {current : Option Nat} (hl : l < 64)
    (entry : s.tables.entryOf frame = some ⟨frame, .migrating current target cursor⟩) :
    s.copyEffect (frame * 64 + l) = copyStepEffect s.memory (s.sourceLine (frame * 64 + l))
      ((s.straps.hostFrames + target) * 64 + l) := by
  have lineFrame : (frame * 64 + l) / 64 = frame := by omega
  have lineInFrame : (frame * 64 + l) % 64 = l := by omega
  have targetLine : s.targetLine (frame * 64 + l) = some ((s.straps.hostFrames + target) * 64 + l) := by
    rw [State.targetLine, lineFrame, lineInFrame, s.backing_migrating entry]
    rfl
  rw [State.copyEffect, targetLine]

/-- A ring has no room once it holds N - 1 records (R119). -/
theorem Ring.room_eq_false {r : Ring} {producer head : Nat}
    (full : 2 ^ r.exponent - 1 ≤ ringDistance (2 ^ r.exponent) producer head) : r.room producer head = false :=
  decide_eq_false (Nat.not_lt_of_le full)

/-- With neither post ready, RING presents the fetch that is (R21, R129). -/
theorem State.ringWork_fetch {s : State} {r : Rings} (runs : s.engine.state = .running) (rings : s.engine.rings = some r)
    (noCompletion : s.admission.backlog = [] ∨ r.cq.room r.cqProducer s.engine.cqHead.toNat = false)
    (noEvent : s.news.events = [] ∨ r.eq.room r.eqProducer s.engine.eqHead.toNat = false)
    (ready : s.fetchReady r = true) : s.ringWork = some (.fetch r) := by
  have fetch : s.fetchWork r = some (.fetch r) := if_pos ready
  have event : s.eventWork r = some (.fetch r) := by
    unfold State.eventWork
    split
    · rename_i events
      rw [noEvent.resolve_left (by simp [events])]
      exact fetch
    · exact fetch
  have post : s.postWork r = some (.fetch r) := by
    unfold State.postWork
    split
    · rename_i backlog
      rw [noCompletion.resolve_left (by simp [backlog])]
      exact event
    · exact event
  simp only [State.ringWork, runs, rings, Option.bind_some, post]

/-- Settles O15: what each requester presents, and the tenure that its grant begins. -/
theorem portGrantReadsOrDrains : Obligations.PortGrantReadsOrDrains := by
  intro s decoded eight acts reads
  have eight_eq (line : Nat) : eight line = s.wholeLine line := rfl
  refine ⟨fun line mask held unblocked room => ?_, fun l m d rest buffer waits => ?_,
    fun m old target cursor copying inFrame entry => ?_, fun line starting asked => ?_,
    fun r runs rings noCompletion noEvent more places live noFetch => ?_, fun k sl occupied => ?_,
    fun line repair waits => ?_⟩
  · simp only [State.grant, State.grantPort, Port.work_read held unblocked room, State.beginTenure_read]
    rfl
  · simp only [State.grant, State.grantPort, Port.work_drain buffer waits]
    rfl
  · simp only [State.grant, State.grantMigration, copying, Tables.cursorOf_migrating entry,
      s.copyEffect_migrating inFrame entry]
    rfl
  · have presented : s.ringWork = some (.anchor line) := by simp only [State.ringWork, starting, asked, Option.map_some]
    simp only [State.grant, State.grantRing, presented, State.beginTenure_wholeLine, reads, eight_eq]
    rfl
  · have ready : s.fetchReady r = true := by simp [State.fetchReady, runs, more, places, live, noFetch]
    have presented := State.ringWork_fetch runs rings (noCompletion.imp_right Ring.room_eq_false)
      (noEvent.imp_right Ring.room_eq_false) ready
    simp only [State.grant, State.grantRing, presented, State.beginTenure_wholeLine, reads, eight_eq]
  · intro taken writes
    have granted : s.grant (.slot k)
        = taken (s.beginTenure (.slotStep k) sl.request.line (s.slotEffect sl.request)) := by
      simp only [State.grant, State.grantSlot, occupied]
      rfl
    rw [granted, Slot.request]
    cases sl.command with
    | scrub first length poison => rfl
    | verify first length => exact congrArg taken (s.beginTenure_wholeLine ..)
    | fill first length pattern => rfl
    | copy source destination length =>
      cases sl.heldLine with
      | none => exact congrArg taken (s.beginTenure_wholeLine ..)
      | some held => rfl
  · simp only [State.grant, State.grantPatrol, waits]
    cases repair with
    | false =>
      show (s.beginTenure .patrolStep line (s.readEffect line 0xFF#8)).withPatrol _ = _
      rw [State.beginTenure_wholeLine]
      rfl
    | true => rfl

end Sys2Proof.Machine
end

section
/-!
The requests that wait, what a grant does to the arbiter's records, and how a happening ends (R19 to R27). Settled here: O16.
-/

namespace Sys2Proof.Machine

/-! ### The requests that wait (R23) -/

theorem State.waitingIf_ready (s : State) (r : Requester) : waitingIf (s.ready r) r = [r].filter s.ready := by
  cases ready : s.ready r <;> simp [waitingIf, ready]

/-- The requests that wait are those that are ready, in the order of R23. -/
theorem State.waiting_eq_filter (s : State) : s.waiting
    = ([.port, .migration, .ring, .slot ((s.arbiter.lastSlot + 1) % 4), .slot ((s.arbiter.lastSlot + 2) % 4),
        .slot ((s.arbiter.lastSlot + 3) % 4), .slot ((s.arbiter.lastSlot + 4) % 4), .patrol] : List Requester).filter
      s.ready := by
  have slots : ((slotOrder s.arbiter.lastSlot).filter s.slotWaiting).map Requester.slot
      = ((slotOrder s.arbiter.lastSlot).map Requester.slot).filter s.ready := by
    rw [List.filter_map]
    rfl
  calc s.waiting = waitingIf (s.ready .port) .port ++ waitingIf (s.ready .migration) .migration
        ++ waitingIf (s.ready .ring) .ring ++ ((slotOrder s.arbiter.lastSlot).map Requester.slot).filter s.ready
        ++ waitingIf (s.ready .patrol) .patrol := by rw [← slots]; rfl
    _ = _ := by
      simp only [State.waitingIf_ready, ← List.filter_append]
      rfl

theorem State.ready_of_waiting {s : State} {r : Requester} (waits : r ∈ s.waiting) : s.ready r = true := by
  rw [State.waiting_eq_filter] at waits
  exact List.of_mem_filter waits

/-- The arbiter's count and last slot are nothing that a requester waits on. -/
@[simp] theorem State.noteGrant_ready (s : State) (r q : Requester) : (s.noteGrant r).ready q = s.ready q := by
  cases q <;> rfl

/-- Where a request waits the arbiter chooses one (R22). -/
theorem chooseFrom_eq_none {guard : Nat} {l : List Requester} (none : chooseFrom guard l = none) : l = [] := by
  unfold chooseFrom at none
  split at none
  · rfl
  · split at none <;> cases none
  · cases none

/-! ### Grants and the arbiter's records (R22 to R24) -/

/-- Of the arbiter's records a grant changes the tenure alone. -/
theorem State.grant_arbiter (s : State) (r : Requester) :
    (s.grant r).arbiter = { s.arbiter with tenure := (s.grant r).arbiter.tenure } := by
  cases r <;> simp only [State.grant]
  case port => unfold State.grantPort; split <;> rfl
  case migration => unfold State.grantMigration; split <;> rfl
  case ring => unfold State.grantRing; split <;> rfl
  case slot k => unfold State.grantSlot; split <;> rfl
  case patrol => unfold State.grantPatrol; split <;> rfl

/-- A requester that is ready begins its tenure when it is granted (R17, R22). -/
theorem State.grant_tenure {s : State} {r : Requester} (ready : s.ready r = true) :
    (s.grant r).arbiter.tenure.isSome = true := by
  cases r <;> simp only [State.grant]
  case port =>
    obtain ⟨work, presented⟩ := Option.isSome_iff_exists.1 ready
    cases work <;> simp only [State.grantPort, presented] <;> rfl
  case migration =>
    obtain ⟨m, copying, _⟩ := (Option.any_eq_true ..).1 ready
    simp only [State.grantMigration, copying]
    rfl
  case ring =>
    obtain ⟨work, presented⟩ := Option.isSome_iff_exists.1 ready
    cases work <;> simp only [State.grantRing, presented] <;> rfl
  case slot k =>
    obtain ⟨sl, occupied, _⟩ := (Option.any_eq_true ..).1 ready
    simp only [State.grantSlot, occupied]
    rfl
  case patrol =>
    simp only [State.ready, Patrol.isWaiting] at ready
    split at ready
    · rename_i line repair waits
      simp only [State.grantPatrol, waits]
      rfl
    · cases ready
    · cases ready

/-- The grants of a happening end with the channel busy, or with no request waiting (R22). -/
theorem arbitrateFrom_channelUsed (n : Nat) (s : State) (enough : s.commandsWaiting < n) :
    (arbitrateFrom n s).ChannelUsed := by
  induction n generalizing s with
  | zero => omega
  | succ n ih =>
    unfold arbitrateFrom
    split
    · rename_i busy
      exact fun free => absurd free (Option.isSome_iff_ne_none.1 busy)
    · split
      · rename_i none
        exact fun _ => chooseFrom_eq_none none
      · rename_i r chosen
        split
        · rename_i k sl refused
          have fewer : ((s.noteGrant r).endRefusedSlot k sl).commandsWaiting < s.commandsWaiting :=
            State.endSlot_commandsWaiting (s.noteGrant r) k sl sl .lineProtected (s.refusedSlot_occupied r k sl refused)
          exact ih _ (by omega)
        · have ready := State.ready_of_waiting (mem_of_chooseFrom chosen)
          rw [← s.noteGrant_ready r] at ready
          exact fun free => absurd free (Option.isSome_iff_ne_none.1 (State.grant_tenure ready))

/-! ### The end of a happening (R22, R116) -/

/-- QUIESCING and QUIESCED present the same work: both post, neither fetches (R108, R116). -/
theorem State.quiesceTest_ringWork (s : State) : s.quiesceTest.ringWork = s.ringWork := by
  unfold State.quiesceTest
  split
  · rename_i quiesces
    have quiescing := quiesces.1
    have noFetch {t : State} {r : Rings} (notRunning : t.engine.state ≠ .running) : t.fetchWork r = none := by
      simp [State.fetchWork, State.fetchReady, notRunning]
    have before (r : Rings) : s.fetchWork r = none := noFetch (by simp [quiescing])
    have after (r : Rings) : (s.modifyEngine fun e => { e with state := .quiesced }).fetchWork r = none :=
      noFetch (by simp [State.modifyEngine])
    have posts (r : Rings) : (s.modifyEngine fun e => { e with state := .quiesced }).postWork r = s.postWork r := by
      simp only [State.postWork, State.eventWork, before, after]
      rfl
    rw [State.ringWork, State.ringWork, quiescing]
    exact congrArg s.engine.rings.bind (funext posts)
  · rfl

@[simp] theorem State.quiesceTest_arbiter (s : State) : s.quiesceTest.arbiter = s.arbiter := by
  unfold State.quiesceTest
  split <;> rfl

theorem State.quiesceTest_waiting (s : State) : s.quiesceTest.waiting = s.waiting := by
  have ring := s.quiesceTest_ringWork
  have others : s.quiesceTest = s.withEngine s.quiesceTest.engine := by
    unfold State.quiesceTest
    split <;> rfl
  rw [others] at ring ⊢
  simp only [State.waiting, ring]
  rfl

/-- A happening that ends with the arbiter's grants leaves no request waiting on a free channel (R22). -/
theorem State.conclude_channelUsed (s : State) : s.conclude.ChannelUsed := by
  have granted : s.arbitrate.ChannelUsed := arbitrateFrom_channelUsed _ s (Nat.lt_succ_self s.commandsWaiting)
  intro free
  have sameWaiting : s.conclude.waiting = s.arbitrate.waiting := s.arbitrate.quiesceTest_waiting
  have sameTenure : s.conclude.arbiter = s.arbitrate.arbiter := s.arbitrate.quiesceTest_arbiter
  rw [sameWaiting]
  exact granted (sameTenure ▸ free)

/-! ### One step -/

/-- From `s` the happening ends in `t` with the arbiter's grants, or with the arbiter and every request as they stood. -/
def State.ServesChannel (s t : State) : Prop :=
  (∃ u : State, t = u.conclude) ∨ (t.arbiter = s.arbiter ∧ t.waiting = s.waiting)

theorem State.ServesChannel.channelUsed {s t : State} (serves : s.ServesChannel t) (used : s.ChannelUsed) :
    t.ChannelUsed := by
  rcases serves with ⟨u, rfl⟩ | ⟨arbiter, waiting⟩
  · exact u.conclude_channelUsed
  · intro free
    rw [waiting]
    exact used (arbiter ▸ free)

theorem State.servesChannel_conclude (s u : State) : s.ServesChannel u.conclude := .inl ⟨u, rfl⟩

theorem State.servesChannel_self (s : State) : s.ServesChannel s := .inr ⟨rfl, rfl⟩

/-- An answer raises no request (R28). -/
theorem State.servesChannel_respond (s : State) (code : ResponseCode) (words : List (Nat × DataWord)) :
    s.ServesChannel (s.respond code words) := .inr ⟨rfl, rfl⟩

theorem State.takeRead_servesChannel (s : State) (line : Nat) (mask : BitVec 8) :
    s.ServesChannel (s.takeRead line mask) := by
  unfold State.takeRead
  repeat' split
  · exact s.servesChannel_respond ..
  · exact s.servesChannel_respond ..
  · exact s.servesChannel_conclude _

theorem State.takeWrite_servesChannel (s : State) (line : Nat) (mask : BitVec 64) (data : BitVec 512) :
    s.ServesChannel (s.takeWrite line mask data) := by
  unfold State.takeWrite
  repeat' split
  · exact s.servesChannel_respond ..
  · exact s.servesChannel_respond ..
  · exact s.servesChannel_conclude _

/-- No requester reads ANCHOR but at a START (R111, R121). -/
theorem State.acceptAnchorWrite_servesChannel (s : State) (v : BitVec 32) : s.ServesChannel (s.acceptAnchorWrite v) :=
  .inr ⟨rfl, rfl⟩

/-- No requester reads Fault Capture (R176). -/
theorem State.acceptFaultInfo_servesChannel (s : State) (v : BitVec 32) : s.ServesChannel (s.acceptFaultInfo v) := by
  unfold State.acceptFaultInfo
  split
  · exact .inr ⟨rfl, rfl⟩
  · exact s.servesChannel_respond ..

theorem State.writeRegister_servesChannel (s : State) (offset : Nat) (v : BitVec 32) :
    s.ServesChannel (s.writeRegister offset v) := by
  unfold State.writeRegister
  repeat' split
  · exact s.servesChannel_conclude _
  · exact s.acceptAnchorWrite_servesChannel v
  · exact s.servesChannel_conclude _
  · exact s.servesChannel_conclude _
  · exact s.servesChannel_conclude _
  · exact s.acceptFaultInfo_servesChannel v
  · exact s.servesChannel_respond ..

/-- A command goes on to a state that serves the channel. -/
def State.GoesOnServing (s : State) (out : Host.Outcome State Fault Refusal) : Prop :=
  ∃ t, out = .next t ∧ s.ServesChannel t

theorem State.hostRequest_goesOnServing (s : State) (f : State → State) (serves : s.ServesChannel (f s)) :
    s.GoesOnServing (s.hostRequest f) := by
  refine ⟨_, rfl, ?_⟩
  split
  · exact serves
  · exact s.servesChannel_self

theorem State.endTenure_goesOnServing (s : State) (f : Work → Bool) (take : Tenure → State → State) :
    s.GoesOnServing (s.endTenure f take) := by
  unfold State.endTenure
  split
  · refine ⟨_, rfl, ?_⟩
    split <;> exact s.servesChannel_conclude _
  · exact ⟨s, rfl, s.servesChannel_self⟩

theorem State.presentRecord_goesOnServing (s : State) (tag : Tag) (c : Command) :
    s.GoesOnServing (s.presentRecord tag c) := by
  refine ⟨_, rfl, ?_⟩
  split
  · exact s.servesChannel_conclude _
  · exact s.servesChannel_self

theorem State.hostReadEnd_goesOnServing (s : State) : s.GoesOnServing (execHostReadEnd s) := by
  unfold execHostReadEnd
  split
  · exact ⟨_, rfl, s.servesChannel_conclude _⟩
  · exact ⟨s, rfl, s.servesChannel_self⟩

theorem State.drainEnd_goesOnServing (s : State) : s.GoesOnServing (execDrainEnd s) := by
  unfold execDrainEnd
  split
  · exact ⟨_, rfl, s.servesChannel_conclude _⟩
  · exact ⟨s, rfl, s.servesChannel_self⟩

theorem State.patrolExpiry_goesOnServing (s : State) : s.GoesOnServing (execPatrolExpiry s) := by
  refine ⟨_, rfl, ?_⟩
  split
  · exact s.servesChannel_conclude _
  · exact s.servesChannel_self

theorem State.postRegister_goesOnServing (s : State) (target : PostedRegister) (v : BitVec 32) :
    s.GoesOnServing (s.hostRequest (·.postRegister target v)) :=
  s.hostRequest_goesOnServing _ (s.servesChannel_conclude _)

/-- Every command but a reset, its release and a disturbance ends with the arbiter's grants or raises no request (R22). -/
theorem exec_goesOnServing (c : Instr) (s : State) (ordinary : Ordinary c) : s.GoesOnServing (exec c s) := by
  cases c with
  | deviceReset _ | deviceResetRelease _ _ | disturbance _ _ _ _ => exact ordinary.elim
  | hostRead line mask => exact s.hostRequest_goesOnServing (·.takeRead line.toNat mask) (s.takeRead_servesChannel ..)
  | hostWrite line mask data =>
    exact s.hostRequest_goesOnServing (·.takeWrite line.toNat mask data) (s.takeWrite_servesChannel ..)
  | start _ | quiesce _ | engineReset _ | enableBits _ | sqTail _ => exact s.postRegister_goesOnServing ..
  | cqHead v => exact s.hostRequest_goesOnServing (·.acceptCqHead v) (s.servesChannel_conclude _)
  | eqHead v => exact s.hostRequest_goesOnServing (·.acceptEqHead v) (s.servesChannel_conclude _)
  | anchor v => exact s.hostRequest_goesOnServing (·.acceptAnchorWrite v) (s.acceptAnchorWrite_servesChannel v)
  | faultInfoClear v =>
    exact s.hostRequest_goesOnServing (·.acceptFaultInfo (v ||| 0x80000000#32)) (s.acceptFaultInfo_servesChannel _)
  | registerWriteOther offset v =>
    exact s.hostRequest_goesOnServing (·.writeRegister offset v) (s.writeRegister_servesChannel offset v)
  | hostReadEnd => exact s.hostReadEnd_goesOnServing
  | drainEnd => exact s.drainEnd_goesOnServing
  | anchorReadEnd | fetchEnd | ringPostEnd | copyStepEnd | slotTenureEnd | patrolTenureEnd =>
    simp only [exec, execAnchorReadEnd, execFetchEnd, execRingPostEnd, execCopyStepEnd, execSlotTenureEnd,
      execPatrolTenureEnd]
    exact s.endTenure_goesOnServing ..
  | patrolExpiry => exact s.patrolExpiry_goesOnServing
  | scrub _ _ _ _ | verify _ _ _ | fill _ _ _ _ | copy _ _ _ _ | retire _ _ | install _ _ _ | withdrawSpare _ _
  | query _ _ | clearSuspect _ _ | setRegion _ _ _ _ _ _ | setPatrol _ _ _ _ | fence _ | abort _ _ =>
    exact s.presentRecord_goesOnServing ..

/-- Settles O16: a command ends with the arbiter's grants or raises no request; in reset nothing waits. -/
theorem noRequestWaitsOnAFreeChannel : Obligations.NoRequestWaitsOnAFreeChannel := by
  intro s t used stepped
  unfold step at stepped
  split at stepped
  · cases stepped
    exact used
  · rename_i c rest _
    replace used : (s.withPending rest).ChannelUsed := used
    generalize s.withPending rest = u at stepped used
    by_cases ordinary : Ordinary c
    · obtain ⟨t', next, serves⟩ := exec_goesOnServing c u ordinary
      cases next.symm.trans stepped
      exact serves.channelUsed used
    · cases c with
      | deviceReset powerOn =>
        cases stepped
        exact fun _ => State.waiting_reset
      | deviceResetRelease size spare =>
        cases stepped
        split <;> exact used
      | disturbance frame line word change =>
        simp only [exec, execDisturbance] at stepped
        split at stepped
        · cases stepped
          exact used
        · cases stepped
      | _ => exact absurd trivial ordinary

end Sys2Proof.Machine
end

section
/-!
The arbiter's choice (R19 to R26): who is ready, which grant is refused, and what a happening comes to. Settled here: O14,
O17 and O32.
-/

namespace Sys2Proof.Machine

/-! ### Who is ready -/

theorem Port.drainWork_isSome (q : Port) :
    q.drainWork.isSome = true ↔ ∃ l m d rest, q.buffer = .memory l m d :: rest := by
  unfold Port.drainWork
  split <;> rename_i buffer <;> simp [buffer]

/-- PORT presents the drain of a memory entry at the head, or a read that no buffered write of its line and no full buffer
blocks (R30, R31). -/
theorem State.ready_port (s : State) : s.ready .port = true ↔ (∃ l m d rest, s.port.buffer = .memory l m d :: rest)
    ∨ ∃ line mask, s.port.held = .readHeld line mask ∧ (∀ m d, .memory line m d ∉ s.port.buffer)
      ∧ s.port.buffer.length < 8 := by
  show s.port.work.isSome = true ↔ _
  rw [← Port.drainWork_isSome]
  unfold Port.work
  split
  · rename_i line mask held
    have unblocked : ¬ s.port.blocked line = true ↔ ∀ m d, .memory line m d ∉ s.port.buffer := by
      simp [Port.blocked_iff]
    split
    · rename_i blocked
      simp [held, ← unblocked, blocked]
    · rename_i free
      split <;> rename_i room <;> simp [held, ← unblocked, free, room]
  all_goals
    rename_i held
    simp [held]

theorem State.ready_migration (s : State) :
    s.ready .migration = true ↔ ∃ m, s.tables.migration = some m ∧ m.step = .waiting := by
  simp [State.ready, Option.any_eq_true]

theorem Ring.room_iff (r : Ring) (producer head : Nat) :
    r.room producer head = true ↔ ringDistance (2 ^ r.exponent) producer head < 2 ^ r.exponent - 1 := decide_eq_true_iff

theorem State.fetchWork_isSome (s : State) (r : Rings) : (s.fetchWork r).isSome = true ↔ s.engine.state = .running
    ∧ r.fetch ≠ s.engine.sqTail.toNat ∧ s.admission.pendingList.length < 16 ∧ s.liveCount < 32
    ∧ s.fetchInTenure = false := by
  simp [State.fetchWork, State.fetchReady, and_assoc]

theorem State.eventWork_isSome (s : State) (r : Rings) : (s.eventWork r).isSome = true ↔
    (s.news.events ≠ [] ∧ r.eq.room r.eqProducer s.engine.eqHead.toNat = true) ∨ (s.fetchWork r).isSome = true := by
  unfold State.eventWork
  split
  · rename_i events
    split <;> rename_i room <;> simp [events, room]
  · rename_i events
    simp [events]

theorem State.postWork_isSome (s : State) (r : Rings) : (s.postWork r).isSome = true ↔
    (s.admission.backlog ≠ [] ∧ r.cq.room r.cqProducer s.engine.cqHead.toNat = true) ∨ (s.eventWork r).isSome = true := by
  unfold State.postWork
  split
  · rename_i backlog
    split <;> rename_i room <;> simp [backlog, room]
  · rename_i backlog
    simp [backlog]

/-- RING presents the anchor read in STARTING; while the engine posts, what `postWork` finds; else nothing (R21, R108). -/
theorem State.ringWork_isSome (s : State) : s.ringWork.isSome = true ↔
    (s.engine.state = .starting ∧ s.engine.anchorRequest ≠ none)
      ∨ ∃ r, s.engine.rings = some r
        ∧ (s.engine.state = .running ∨ s.engine.state = .quiescing ∨ s.engine.state = .quiesced)
        ∧ (s.postWork r).isSome = true := by
  unfold State.ringWork
  split <;> rename_i state <;> simp only [state, reduceCtorEq, false_and, and_false, true_and, false_or, or_false, or_true,
    exists_false]
  case h_1 => simp [Option.isSome_iff_ne_none]
  case h_2 | h_3 | h_4 => cases s.engine.rings <;> simp
  all_goals simp

theorem State.ready_ring (s : State) : s.ready .ring = true ↔
    (s.engine.state = .starting ∧ s.engine.anchorRequest ≠ none)
      ∨ ∃ r, s.engine.rings = some r
        ∧ (s.engine.state = .running ∨ s.engine.state = .quiescing ∨ s.engine.state = .quiesced)
        ∧ ((s.admission.backlog ≠ []
            ∧ ringDistance (2 ^ r.cq.exponent) r.cqProducer s.engine.cqHead.toNat < 2 ^ r.cq.exponent - 1)
          ∨ (s.news.events ≠ []
            ∧ ringDistance (2 ^ r.eq.exponent) r.eqProducer s.engine.eqHead.toNat < 2 ^ r.eq.exponent - 1)
          ∨ (s.engine.state = .running ∧ r.fetch ≠ s.engine.sqTail.toNat ∧ s.admission.pendingList.length < 16
            ∧ s.liveCount < 32 ∧ s.fetchInTenure = false)) := by
  simp only [← Ring.room_iff, ← State.fetchWork_isSome, ← State.eventWork_isSome, ← State.postWork_isSome]
  exact s.ringWork_isSome

theorem State.fetchInTenure_iff (s : State) :
    s.fetchInTenure = true ↔ ∃ t, s.arbiter.tenure = some t ∧ t.work = .fetch ∧ t.discarded = false := by
  simp [State.fetchInTenure, Option.any_eq_true]

theorem State.ready_slot (s : State) (k : Nat) :
    s.ready (.slot k) = true ↔ ∃ sl, s.slotAt k = some sl ∧ sl.phase = .waiting := by
  simp [State.ready, State.slotWaiting, Option.any_eq_true]

theorem State.slotAt_iff (s : State) (k : Nat) (sl : Slot) :
    s.slotAt k = some sl ↔ s.admission.slots[k]? = some (some sl) := Option.join_eq_some_iff

theorem State.ready_patrol (s : State) :
    s.ready .patrol = true ↔ ∃ line repair, s.patrol.phase = .waiting line repair := by
  show s.patrol.isWaiting = true ↔ _
  unfold Patrol.isWaiting
  split <;> rename_i phase <;> simp [phase]

/-! ### Refused grants (R26, R152, R155) -/

/-- The slots that ask for a Line Write: FILL, and COPY with a held line (R151, R153, R154). -/
theorem Slot.request_write_iff (sl : Slot) (line : Nat) : (∃ words, sl.request = .write line words) ↔
    (∃ first length pattern, sl.command = .fill first length pattern ∧ line = first + sl.progress)
      ∨ (∃ source destination length held, sl.command = .copy source destination length ∧ sl.heldLine = some held
        ∧ line = destination + sl.progress) := by
  unfold Slot.request
  split <;> rename_i command
  · simp [command]
  · simp [command]
  · simp [command, eq_comm]
  · split <;> rename_i held <;> simp [command, held, eq_comm]

/-- A grant is refused when the slot asks to write a line with WRITE_PROTECT. -/
theorem State.refusedSlot_of_write {s : State} {k line : Nat} {sl : Slot} {words : List WordWrite}
    (occupied : s.slotAt k = some sl) (request : sl.request = .write line words)
    (protect : (s.tables.attributesOfLine line).writeProtect = true) : s.refusedSlot (.slot k) = some (k, sl) := by
  simp only [State.refusedSlot, occupied, request, if_pos protect]

/-- No other grant is refused. -/
theorem State.refusedSlot_some {s : State} {r : Requester} {k : Nat} {sl : Slot} (refused : s.refusedSlot r = some (k, sl)) :
    r = .slot k ∧ s.slotAt k = some sl
      ∧ ∃ line, (∃ words, sl.request = .write line words) ∧ (s.tables.attributesOfLine line).writeProtect = true := by
  have occupied := s.refusedSlot_occupied r k sl refused
  cases r with
  | slot j =>
    unfold State.refusedSlot at refused
    dsimp only at refused
    split at refused
    · split at refused
      · rename_i line words request
        split at refused
        · rename_i protect
          cases refused
          exact ⟨rfl, occupied, line, ⟨words, request⟩, protect⟩
        · cases refused
      all_goals cases refused
    · cases refused
  | port | migration | ring | patrol => cases refused

/-! ### The grant (R22 to R24) -/

theorem State.arbitrate_idle (s : State) (free : s.arbiter.tenure = none) (none : s.waiting = []) : s.arbitrate = s := by
  simp [State.arbitrate, arbitrateFrom, free, none, chooseFrom]

/-- The requester chosen, if it is not refused, is granted (R22). -/
theorem State.arbitrate_granted (s : State) (r : Requester) (free : s.arbiter.tenure = none)
    (chosen : chooseFrom s.arbiter.guard s.waiting = some r) (taken : s.refusedSlot r = none) :
    s.arbitrate = (s.noteGrant r).grant r ∧ s.arbitrate.arbiter.tenure.isSome = true
      ∧ s.arbitrate.arbiter.guard = guardAfter s.arbiter.guard s.waiting r
      ∧ s.arbitrate.arbiter.lastSlot = lastSlotAfter s.arbiter.lastSlot r := by
  have granted : s.arbitrate = (s.noteGrant r).grant r := by
    simp [State.arbitrate, arbitrateFrom, free, chosen, taken]
  have ready := State.ready_of_waiting (mem_of_chooseFrom chosen)
  rw [← s.noteGrant_ready r] at ready
  rw [granted]
  refine ⟨rfl, State.grant_tenure ready, ?_, ?_⟩ <;> rw [State.grant_arbiter] <;> rfl

/-- The first that waits is chosen, PORT only below a guard count of 8 or alone (R23, R24). -/
theorem chooseFrom_cons {guard : Nat} {r : Requester} {rest : List Requester}
    (port : r = .port → guard < 8 ∨ rest = []) : chooseFrom guard (r :: rest) = some r := by
  unfold chooseFrom
  split
  · rename_i waiting
    cases waiting
  · rename_i waiting
    cases waiting
    exact if_neg (Nat.not_le_of_lt ((port rfl).resolve_right (by simp)))
  · rename_i waiting
    cases waiting
    rfl

/-- PORT is passed over at a guard count of 8 (R24). -/
theorem chooseFrom_port {guard : Nat} {r : Requester} {rest : List Requester} (full : 8 ≤ guard) :
    chooseFrom guard (.port :: r :: rest) = some r := if_pos full

theorem guardAfter_cons (guard : Nat) (r : Requester) (rest : List Requester) :
    guardAfter guard (r :: rest) r = if r = .port ∧ rest ≠ [] then guard + 1 else 0 := by
  cases r with
  | port => cases rest <;> simp [guardAfter]
  | migration | ring | slot _ | patrol => simp [guardAfter]

theorem guardAfter_notPort (guard : Nat) (waiting : List Requester) {r : Requester} (notPort : r ≠ .port) :
    guardAfter guard waiting r = 0 := by
  cases r with
  | port => exact absurd rfl notPort
  | migration | ring | slot _ | patrol => rfl

/-- Only one request waits in PORT's name (R19, R20). -/
theorem State.second_notPort {s : State} {r : Requester} {rest : List Requester} (waits : s.waiting = .port :: r :: rest) :
    r ≠ .port := by
  rintro rfl
  have notPort := s.port_notMem_waitingBehindPort
  rw [State.waiting_eq] at waits
  cases port : s.port.work.isSome with
  | false =>
    rw [port] at waits
    exact notPort ((show s.waitingBehindPort = _ from waits) ▸ List.mem_cons_self ..)
  | true =>
    rw [port] at waits
    exact notPort ((show s.waitingBehindPort = _ from (List.cons.inj waits).2) ▸ List.mem_cons_self ..)

/-! ### The conclusion (R116, R126) -/

theorem State.quiesceTest_eq (g : State) : g.quiesceTest = g.withEngine
    (if g.engine.state = .quiescing ∧ g.admission.pendingList = [] ∧ g.admission.slots.all (·.isNone) = true
        ∧ g.admission.backlog = [] ∧ g.fetchInTenure = false then { g.engine with state := .quiesced } else g.engine) := by
  unfold State.quiesceTest allFree
  split <;> rfl

/-- The level of ATTN (R126). -/
theorem State.attnLevel_iff (t : State) : t.attnLevel = true ↔
    (∃ r, t.engine.rings = some r ∧ t.engine.enables.comp = true ∧ r.cqProducer ≠ t.engine.cqHead.toNat)
      ∨ (∃ r, t.engine.rings = some r ∧ t.engine.enables.event = true ∧ r.eqProducer ≠ t.engine.eqHead.toNat)
      ∨ (t.engine.enables.halt = true ∧ t.engine.state = .halted) := by
  unfold State.attnLevel
  split <;> rename_i rings <;> simp [rings, or_assoc]

/-- Settles O14: the rules of the choice, of the grant and of the conclusion, one by one. -/
theorem grantsFollowOrderAndGuard : Obligations.GrantsFollowOrderAndGuard := by
  intro s last granted refused
  have taken {r : Requester} (notRefused : ¬ refused r) : s.refusedSlot r = none := by
    cases refusal : s.refusedSlot r with
    | none => rfl
    | some p =>
      obtain ⟨isSlot, occupied, line, write, protect⟩ := State.refusedSlot_some refusal
      exact absurd ⟨p.1, p.2, line, isSlot, occupied, protect, (Slot.request_write_iff ..).1 write⟩ notRefused
  have noted (r : Requester) : (s.noteGrant r).grant r = granted r (guardAfter s.arbiter.guard s.waiting r) := by
    cases r <;> rfl
  refine ⟨s.waiting_eq_filter, s.ready_port, s.ready_migration, s.ready_ring, s.fetchInTenure_iff, s.ready_slot,
    s.slotAt_iff, s.ready_patrol, s.arbitrate_busy, s.arbitrate_idle, fun r rest free waits notRefused port => ?_,
    fun r rest free waits full notRefused => ?_, ?_, s.conclude.attnLevel_iff⟩
  · have chosen : chooseFrom s.arbiter.guard s.waiting = some r := waits ▸ chooseFrom_cons port
    obtain ⟨done, busy, guard, lastSlot⟩ := s.arbitrate_granted r free chosen (taken notRefused)
    rw [noted r, waits, guardAfter_cons] at done
    rw [waits, guardAfter_cons] at guard
    refine ⟨done, busy, guard, lastSlot.trans ?_⟩
    cases r <;> rfl
  · have chosen : chooseFrom s.arbiter.guard s.waiting = some r := waits ▸ chooseFrom_port full
    obtain ⟨done, busy, guard, _⟩ := s.arbitrate_granted r free chosen (taken notRefused)
    rw [noted r, guardAfter_notPort _ _ (State.second_notPort waits)] at done
    rw [guardAfter_notPort _ _ (State.second_notPort waits)] at guard
    exact ⟨done, busy, guard⟩
  · exact congrArg (·.withAttn s.conclude.attn) s.arbitrate.quiesceTest_eq

/-- Settles O17: the refused grant of a chosen slot, whose end is the slot's own completion. -/
theorem protectedSlotWriteIsRefused : Obligations.ProtectedSlotWriteIsRefused := by
  intro s k line sl free waits occupied writes protect unmarked
  have chosen : chooseFrom s.arbiter.guard s.waiting = some (.slot k) := by
    rcases waits with ⟨rest, waits⟩ | ⟨full, rest, waits⟩
    · exact waits ▸ chooseFrom_cons (by rintro ⟨⟩)
    · exact waits ▸ chooseFrom_port full
  obtain ⟨words, request⟩ := (sl.request_write_iff line).2 writes
  have refused := State.refusedSlot_of_write occupied request protect
  rw [s.arbitrate_refused _ k sl free chosen refused, State.endRefusedSlot, State.endSlot, Slot.completions, unmarked]
  rfl

/-! ### Tenures that only free the channel (R18, R119) -/

/-- The tenure in progress is the one that its own end ends (R17). -/
theorem State.ending_of_tenure {s : State} {t : Tenure} {f : Work → Bool} (live : s.resetAsserted = false)
    (tenure : s.arbiter.tenure = some t) (work : f t.work = true) : s.ending f = some t := by
  simp [State.ending, live, tenure, Option.filter, work]

/-- A tenure whose reports are discarded ends with the channel free (R18). -/
theorem State.endTenure_discarded {s : State} {t : Tenure} {f : Work → Bool} (take : Tenure → State → State)
    (live : s.resetAsserted = false) (tenure : s.arbiter.tenure = some t) (work : f t.work = true)
    (discarded : t.discarded = true) : s.endTenure f take = .next s.freeChannel.conclude := by
  simp only [State.endTenure, State.ending_of_tenure live tenure work, if_pos discarded]

/-- Settles O32: a post hands on nothing, and discarded reports are not taken. -/
theorem discardedTenuresAndPostsOnlyEnd : Obligations.DiscardedTenuresAndPostsOnlyEnd := by
  intro s t live tenure free
  simp only [exec, execRingPostEnd, execAnchorReadEnd, execFetchEnd, execCopyStepEnd, execSlotTenureEnd,
    execPatrolTenureEnd]
  refine ⟨fun post => ?_, fun discarded => ⟨fun work => ?_, fun work => ?_, fun work => ?_, fun k work => ?_, fun work => ?_⟩⟩
  · have ending : s.ending (fun w => w == .completionPost || w == .eventPost) = some t :=
      State.ending_of_tenure live tenure (by simpa using post)
    simp only [State.endTenure, ending, ite_self]
    rfl
  all_goals exact State.endTenure_discarded _ live tenure (by simp [work, Work.slot?]) discarded

end Sys2Proof.Machine
end

section
/-!
A ring's post: the record it writes, and what else of the state it changes (R21, R117, R119, R171, R172). Settled here: O37.
-/

namespace Sys2Proof.Machine

/-! ### The words of a record -/

theorem wholeWordWrites_length (first : Nat) (words : List DataWord) : (wholeWordWrites first words).length = 8 := by
  simp [wholeWordWrites]

/-- A record written in whole words stands in its line, and in the line that routing adds; their other words are as they
were (R10). -/
theorem read_wholeWordWrites (m : Memory) (source : Nat) (target : Option Nat) (first : Nat) (words : List DataWord)
    {l w : Nat} (hw : w < 8) (reached : l = source ∨ target = some l) :
    (m.writeAll (lineWriteEffect m source target (wholeWordWrites first words)).writes).read (wordKey l w)
      = if first ≤ w ∧ w < first + words.length then .clean (words.getD (w - first) 0#64) else m.read (wordKey l w) := by
  have full := wholeWordWrites_length first words
  rw [read_lineWriteEffect m source target _ full.le (full.symm ▸ hw) reached]
  simp only [wholeWordWrites, List.getElem_map, List.getElem_range]
  by_cases inRecord : first ≤ w ∧ w < first + words.length
  · rw [if_pos inRecord, settleWord_whole _ _ rfl, if_pos inRecord]
    rfl
  · rw [if_neg inRecord, (settleWord_eq_none_iff ..).2 rfl, if_neg inRecord]

/-- The words outside the record's places, and every line that routing does not reach, are as they were. -/
theorem read_wholeWordWrites_outside (m : Memory) (source : Nat) (target : Option Nat) (first : Nat) (words : List DataWord)
    {l w : Nat} (hw : w < 8)
    (outside : ¬ (first ≤ w ∧ w < first + words.length) ∨ l ≠ source ∧ target ≠ some l) :
    (m.writeAll (lineWriteEffect m source target (wholeWordWrites first words)).writes).read (wordKey l w)
      = m.read (wordKey l w) := by
  by_cases reached : l = source ∨ target = some l
  · rw [read_wholeWordWrites m source target first words hw reached,
      if_neg (outside.resolve_right fun ⟨notSource, notTarget⟩ => reached.elim notSource notTarget)]
  · rw [not_or] at reached
    exact read_lineWriteEffect_otherLine m source target _ (wholeWordWrites_length ..).le hw reached.1 reached.2

/-! ### Posts -/

/-- While the engine posts, RING presents what its rings give (R21, R108). -/
theorem State.ringWork_posts {s : State} {r : Rings} (posts : s.engine.state.posts = true)
    (rings : s.engine.rings = some r) : s.ringWork = s.postWork r := by
  unfold State.ringWork
  split <;> rename_i state <;> simp only [state, EngineState.posts, Bool.false_eq_true] at posts <;>
    simp only [rings, Option.bind_some]

/-- With no completion ready, RING presents the head event, its ring having room (R21, R172). -/
theorem State.ringWork_event {s : State} {r : Rings} {e : EventRecord} {rest : List EventRecord}
    (posts : s.engine.state.posts = true) (rings : s.engine.rings = some r)
    (noCompletion : s.admission.backlog = [] ∨ r.cq.room r.cqProducer s.engine.cqHead.toNat = false)
    (events : s.news.events = e :: rest) (room : r.eq.room r.eqProducer s.engine.eqHead.toNat = true) :
    s.ringWork = some (.event r e rest) := by
  have event : s.eventWork r = some (.event r e rest) := by simp only [State.eventWork, events, if_pos room]
  rw [State.ringWork_posts posts rings]
  unfold State.postWork
  split
  · rename_i backlog
    rw [noCompletion.resolve_left (by simp [backlog])]
    exact event
  · exact event

/-- The head record leaves, and a pending summary's OVERFLOW record takes the freed place (R171). -/
theorem News.afterPost_eq (n : News) (rest : List EventRecord) : n.afterPost rest
    = { n with events := rest ++ (n.overflow.map Overflow.event).toList, overflow := none } := by
  unfold News.afterPost
  split <;> rename_i overflow <;> simp [overflow]

/-- Settles O37: RING presents the head event, and its post writes the record's four words. -/
theorem eventPostIsSettledAtItsGrant : Obligations.EventPostIsSettledAtItsGrant := by
  intro s r e rest posts rings noCompletion events room line t next
  have presented := State.ringWork_event posts rings (noCompletion.imp_right Ring.room_eq_false) events
    ((Ring.room_iff ..).2 room)
  have posted : t = s.postEvent r e rest := by simp only [t, State.grant, State.grantRing, presented]
  have fourWords : (e.words r.eqLap).length = 4 := rfl
  rw [posted]
  refine ⟨s.news.afterPost_eq rest, rfl, rfl, rfl, fun i hi => ?_, fun l w hw outside => ?_⟩
  · have inRecord : 4 * (r.eqProducer % 2) ≤ 4 * (r.eqProducer % 2) + i
        ∧ 4 * (r.eqProducer % 2) + i < 4 * (r.eqProducer % 2) + (e.words r.eqLap).length := by omega
    refine (read_wholeWordWrites s.memory (s.sourceLine line) (s.dualLine line) _ _ (by omega) (.inl rfl)).trans ?_
    rw [if_pos inRecord, Nat.add_sub_cancel_left]
  · exact read_wholeWordWrites_outside s.memory (s.sourceLine line) (s.dualLine line) _ _ hw
      (outside.imp_left fun otherHalf => by omega)

end Sys2Proof.Machine
end

section
/-!
Routing by the frame's Remap Table entry (R50 to R55). Settled here: O11.
-/

namespace Sys2Proof.Machine

/-! ### The lines of a host line, by its entry -/

theorem Tables.entryOf_none {t : Tables} {frame : Nat} (absent : ∀ e ∈ t.remap, e.frame ≠ frame) :
    t.entryOf frame = none := List.find?_eq_none.2 fun e inside => by simpa using absent e inside

section
variable (s : State) (line : Nat)

/-- Without an entry the line is its own (R52). -/
theorem State.route_none (entry : s.tables.entryOf (line / 64) = none) :
    s.sourceLine line = line ∧ s.targetLine line = none ∧ s.dualLine line = none := by
  have backing : s.backing (line / 64) = ⟨line / 64, none, 0⟩ := by rw [State.backing, entry]
  simp only [State.sourceLine, State.targetLine, State.dualLine, backing, Option.map_none, ite_self, and_true]
  omega

/-- ACTIVE on a spare, the line is the spare's (R52). -/
theorem State.route_active {k : Nat} (entry : s.tables.entryOf (line / 64) = some ⟨line / 64, .active k⟩) :
    s.sourceLine line = (s.straps.hostFrames + k) * 64 + line % 64 ∧ s.targetLine line = none
      ∧ s.dualLine line = none := by
  have backing : s.backing (line / 64) = ⟨s.spareFrame k, none, 0⟩ := by rw [State.backing, entry]
  simp only [State.sourceLine, State.targetLine, State.dualLine, backing, Option.map_none, ite_self, and_true]
  rfl

/-- MIGRATING, the line is the current spare's, or its own, with a target line that Line Writes reach below the cursor (R52,
R54). -/
theorem State.route_migrating {current : Option Nat} {target cursor : Nat}
    (entry : s.tables.entryOf (line / 64) = some ⟨line / 64, .migrating current target cursor⟩) :
    s.sourceLine line = (current.map fun k => (s.straps.hostFrames + k) * 64 + line % 64).getD line
    ∧ s.targetLine line = some ((s.straps.hostFrames + target) * 64 + line % 64)
    ∧ s.dualLine line
      = if line % 64 < cursor then some ((s.straps.hostFrames + target) * 64 + line % 64) else none := by
  have backing := s.backing_migrating entry
  have targetLine : s.targetLine line = some ((s.straps.hostFrames + target) * 64 + line % 64) := by
    rw [State.targetLine, backing]
    rfl
  refine ⟨?_, targetLine, by rw [State.dualLine, backing, targetLine]⟩
  rw [State.sourceLine, backing]
  cases current with
  | some k => rfl
  | none => exact Nat.div_add_mod' line 64

end

/-! ### The spares reached (R51) -/

section
variable {t : Tables} (tables : t.Consistent) {frame k : Nat}
include tables

/-- The current spare of an entry is ASSIGNED. -/
theorem Tables.Consistent.assigned_of_entry {e : RemapEntry} (entry : t.entryOf frame = some e)
    (current : e.state.current? = some k) : t.spares[k]? = some .assigned :=
  (tables.assigned k).2 ⟨e, (Tables.entryOf_some entry).1, current⟩

/-- The target spare of an entry is TARGET. -/
theorem Tables.Consistent.target_of_targetOf (target : t.targetOf frame = some k) : t.spares[k]? = some .target := by
  obtain ⟨e, entry, named⟩ := Option.bind_eq_some_iff.1 target
  exact (tables.target k).2 ⟨e, (Tables.entryOf_some entry).1, named⟩

/-- The MIGRATING entry is the one of the migration in progress, so there is no other. -/
theorem Tables.Consistent.migratingFrame_iff : t.migratingFrame = some frame
    ↔ ∃ current target cursor, (⟨frame, .migrating current target cursor⟩ : RemapEntry) ∈ t.remap := by
  simp only [Tables.migratingFrame, Option.map_eq_some_iff]
  constructor
  · rintro ⟨⟨f, st⟩, found, rfl⟩
    have migrating := List.find?_some found
    cases st with
    | active => cases migrating
    | migrating current target cursor => exact ⟨current, target, cursor, List.mem_of_find?_eq_some found⟩
  · rintro ⟨current, target, cursor, inside⟩
    have present : (t.remap.find? fun e => e.state.isMigrating).isSome = true := List.find?_isSome.2 ⟨_, inside, rfl⟩
    obtain ⟨e, found⟩ := Option.isSome_iff_exists.1 present
    obtain ⟨m, copying, mine⟩ := tables.entry _ inside rfl
    have migrating : e.state.isMigrating = true := List.find?_some (p := fun e : RemapEntry => e.state.isMigrating) found
    obtain ⟨m', copying', found'⟩ := tables.entry e (List.mem_of_find?_eq_some found) migrating
    cases copying.symm.trans copying'
    exact ⟨e, found, found'.symm.trans mine⟩

end

/-- A host line's source is its own line, or its line in an ASSIGNED spare (R25, R51, R52). -/
theorem State.sourceLine_cases {s : State} (tables : s.tables.Consistent) (line : Nat) :
    (s.sourceLine line = line ∧ s.tables.entryOf (line / 64) = none)
      ∨ (s.sourceLine line = line
        ∧ ∃ target cursor, s.tables.entryOf (line / 64) = some ⟨line / 64, .migrating none target cursor⟩)
      ∨ ∃ k, s.tables.spares[k]? = some .assigned
        ∧ s.sourceLine line = (s.straps.hostFrames + k) * 64 + line % 64 := by
  cases entry : s.tables.entryOf (line / 64) with
  | none => exact .inl ⟨(s.route_none line entry).1, rfl⟩
  | some e =>
    obtain ⟨frame, st⟩ := e
    obtain rfl : frame = line / 64 := (Tables.entryOf_some entry).2
    cases st with
    | active k => exact .inr (.inr ⟨k, tables.assigned_of_entry entry rfl, (s.route_active line entry).1⟩)
    | migrating current target cursor =>
      have source := (s.route_migrating line entry).1
      cases current with
      | none => exact .inr (.inl ⟨source, target, cursor, rfl⟩)
      | some k => exact .inr (.inr ⟨k, tables.assigned_of_entry entry rfl, source⟩)

/-- Settles O11: routing goes by the frame's one entry, whose spares R51 names ASSIGNED and TARGET. -/
theorem routingReachesNoIdleSpare : Obligations.RoutingReachesNoIdleSpare := by
  refine ⟨fun s line tables _ _ => ⟨State.sourceLine_cases tables line, fun p reached => ?_⟩, fun s line tables => ?_,
    fun s line => ⟨fun _ => rfl, fun _ => rfl, fun target targeted => ?_⟩⟩
  · obtain ⟨k, target, rfl⟩ := State.targetLine_some reached
    exact ⟨k, tables.target_of_targetOf target, rfl⟩
  · refine ⟨fun absent => s.route_none line (Tables.entryOf_none absent),
      fun k inside => s.route_active line (tables.entryOf_eq inside), fun current target cursor inside => ?_,
      fun frame absent => Tables.entryOf_none absent, fun e inside => tables.entryOf_eq inside,
      fun frame => tables.migratingFrame_iff⟩
    have route := s.route_migrating line (tables.entryOf_eq inside)
    cases current <;> exact route
  · rw [State.copyEffect, targeted]

end Sys2Proof.Machine
end

section
/-!
The Host Port's requests (R28 to R41): what HOST_READ, HOST_WRITE and a posted register write come to, and what the end
of a host read answers. Settled here: O18, O19, O20 and O22.
-/

namespace Sys2Proof.Machine

/-! ### A write joins the Write Post Buffer (R34, R41) -/

/-- A request that the port takes runs (R1, R28). -/
theorem State.hostRequest_taken {s : State} (f : State → State) (takes : s.hostTakes = true) :
    s.hostRequest f = .next (f s) := by
  simp only [State.hostRequest, if_pos takes]

section
variable {s : State}

/-- A memory entry joins the tail, and no register entry is at the head then (R34). -/
theorem State.joinBuffer_memory (line : Nat) (mask : BitVec 64) (data : BitVec 512) (head : s.port.headIsMemory) :
    s.joinBuffer (.memory line mask data) = s.setBuffer (s.port.buffer ++ [.memory line mask data]) := by
  refine State.deliverHeads_of_headIsMemory _ ?_
  unfold Port.headIsMemory State.setBuffer at *
  rcases buffer : s.port.buffer with _ | ⟨_ | _, rest⟩ <;> simp_all

/-- Behind a memory entry any entry joins the tail and waits there (R41). -/
theorem State.joinBuffer_behind (e : PostEntry) (head : s.port.headIsMemory) (behind : s.port.buffer ≠ []) :
    s.joinBuffer e = s.setBuffer (s.port.buffer ++ [e]) := by
  refine State.deliverHeads_of_headIsMemory _ ?_
  unfold Port.headIsMemory State.setBuffer at *
  rcases buffer : s.port.buffer with _ | ⟨_ | _, rest⟩ <;> simp_all

/-- A register entry that finds the buffer empty takes effect and leaves it empty (R41). -/
theorem State.joinBuffer_register_of_empty (target : PostedRegister) (v : BitVec 32) (empty : s.port.buffer = []) :
    s.joinBuffer (.register target v) = (s.setBuffer []).deliver target v := by
  simp [State.joinBuffer, State.deliverHeads, State.setBuffer, empty, deliverFrom]

/-- A memory write refused by WRITE_PROTECT joins no buffer and is reported (R34). -/
theorem State.acceptEntry_protected (line : Nat) (mask : BitVec 64) (data : BitVec 512)
    (protects : (s.tables.attributesOfLine line).writeProtect = true) :
    s.acceptEntry (.memory line mask data) = (s.withPort { s.port with answer := some ⟨.lineProtected, []⟩ }).offer
      { kind := .writeRefused, source := .hostWrite, line } := by
  simp only [State.acceptEntry, if_pos protects]
  rfl

/-- A memory write that no region protects is accepted into the buffer (R34). -/
theorem State.acceptEntry_memory (line : Nat) (mask : BitVec 64) (data : BitVec 512) (head : s.port.headIsMemory)
    (allowed : (s.tables.attributesOfLine line).writeProtect = false) :
    s.acceptEntry (.memory line mask data) = s.withPort { s.port with
      answer := some ⟨.accepted, []⟩, buffer := s.port.buffer ++ [.memory line mask data] } := by
  simp only [State.acceptEntry, allowed, Bool.false_eq_true, if_false]
  exact State.joinBuffer_memory (s := s.respond .accepted []) line mask data head

/-- A register write behind a memory write is accepted and waits (R41). -/
theorem State.acceptEntry_register_behind (target : PostedRegister) (v : BitVec 32) (head : s.port.headIsMemory)
    (behind : s.port.buffer ≠ []) :
    s.acceptEntry (.register target v) = s.withPort { s.port with
      answer := some ⟨.accepted, []⟩, buffer := s.port.buffer ++ [.register target v] } :=
  State.joinBuffer_behind (s := s.respond .accepted []) _ head behind

/-- A register write that finds the buffer empty is accepted and takes effect (R41). -/
theorem State.acceptEntry_register_of_empty (target : PostedRegister) (v : BitVec 32) (empty : s.port.buffer = []) :
    s.acceptEntry (.register target v)
      = (s.withPort { s.port with answer := some ⟨.accepted, []⟩, buffer := [] }).deliver target v :=
  State.joinBuffer_register_of_empty (s := s.respond .accepted []) target v empty

/-- A write that finds a free place is judged at once (R34). -/
theorem State.presentWrite_room (e : PostEntry) (room : s.port.buffer.length < 8) : s.presentWrite e = s.acceptEntry e :=
  if_pos room

/-- A write that finds the buffer full is held (R28, R34). -/
theorem State.presentWrite_full (e : PostEntry) (full : 8 ≤ s.port.buffer.length) :
    s.presentWrite e = s.withPort { s.port with held := .writeHeld e } :=
  if_neg (Nat.not_lt.2 full)

end

/-! ### HOST_READ and HOST_WRITE -/

/-- Settles O18: R29's range first, then R30's mask. -/
theorem hostReadIsAnsweredOrHeld : Obligations.HostReadIsAnsweredOrHeld := by
  intro line mask s takes
  have run : exec (.hostRead line mask) s = .next (s.takeRead line.toNat mask) := by
    rw [exec, execHostRead, State.hostRequest_taken _ takes]
  rw [run, State.takeRead, Straps.hostLines]
  refine ⟨fun beyond => ?_, fun inHost empty => ?_, fun inHost masked => ?_⟩
  · rw [if_pos beyond]
    rfl
  · rw [if_neg (Nat.not_le.2 inHost), if_pos empty]
    rfl
  · rw [if_neg (Nat.not_le.2 inHost), if_neg masked]
    rfl

/-- A memory write that the port takes is judged by R29 and R34. -/
theorem exec_hostWrite_taken (line : BitVec 28) (mask : BitVec 64) (data : BitVec 512) {s : State}
    (takes : s.hostTakes = true) : exec (.hostWrite line mask data) s = .next (s.takeWrite line.toNat mask data) := by
  rw [exec, execHostWrite, State.hostRequest_taken _ takes]

/-- A memory write in range with some byte to write goes to the Write Post Buffer (R29, R34). -/
theorem exec_hostWrite_presented {line : BitVec 28} {mask : BitVec 64} (data : BitVec 512) {s : State}
    (takes : s.hostTakes = true) (inHost : line.toNat < s.straps.hostFrames * 64) (masked : mask ≠ 0#64) :
    exec (.hostWrite line mask data) s = .next (s.presentWrite (.memory line.toNat mask data)).conclude := by
  rw [exec_hostWrite_taken _ _ _ takes, State.takeWrite, Straps.hostLines, if_neg (Nat.not_le.2 inHost), if_neg masked]

/-- Settles O19: R29's range, then the mask, then the place in the buffer, then the Region Table (R34, R38). -/
theorem hostWriteIsJudgedOnce : Obligations.HostWriteIsJudgedOnce := by
  intro line mask data s takes
  refine ⟨fun beyond => ?_, fun inHost empty => ?_, fun inHost masked full => ?_, fun inHost masked room protects => ?_,
    fun inHost masked room head allowed => ?_⟩
  · rw [exec_hostWrite_taken _ _ _ takes, State.takeWrite, Straps.hostLines, if_pos beyond]
    rfl
  · rw [exec_hostWrite_taken _ _ _ takes, State.takeWrite, Straps.hostLines, if_neg (Nat.not_le.2 inHost), if_pos empty]
    rfl
  · rw [exec_hostWrite_presented data takes inHost masked, State.presentWrite_full _ full]
  · rw [exec_hostWrite_presented data takes inHost masked, State.presentWrite_room _ room,
      State.acceptEntry_protected _ _ _ protects]
  · rw [exec_hostWrite_presented data takes inHost masked, State.presentWrite_room _ room,
      State.acceptEntry_memory _ _ _ head allowed]

/-! ### Posted register writes (R41) -/

/-- The five rows that write CTRL or SQ_TAIL present a posted register write of the value written (R41; log 12). -/
theorem exec_postsRegister {c : Instr} {target : PostedRegister} {v : BitVec 32} {s : State} (takes : s.hostTakes = true)
    (row : c = .start (v ||| 1#32) ∧ target = .ctrl ∧ v.getLsbD 0 = true
      ∨ c = .quiesce (v ||| 2#32) ∧ target = .ctrl ∧ v.getLsbD 1 = true
      ∨ c = .engineReset (v ||| 4#32) ∧ target = .ctrl ∧ v.getLsbD 2 = true
      ∨ c = .enableBits v ∧ target = .ctrl ∨ c = .sqTail v ∧ target = .sqTail) :
    exec c s = .next (s.postRegister target v) := by
  rcases row with ⟨rfl, rfl, bit⟩ | ⟨rfl, rfl, bit⟩ | ⟨rfl, rfl, bit⟩ | ⟨rfl, rfl⟩ | ⟨rfl, rfl⟩
  · have value := or_twoPow_of_getLsbD v 1#32 0 rfl bit
    rw [exec, execStart, State.hostRequest_taken _ takes, value, value]
  · have value := or_twoPow_of_getLsbD v 2#32 1 rfl bit
    rw [exec, execQuiesce, State.hostRequest_taken _ takes, value, value]
  · have value := or_twoPow_of_getLsbD v 4#32 2 rfl bit
    rw [exec, execEngineReset, State.hostRequest_taken _ takes, value, value]
  · rw [exec, execEnableBits, State.hostRequest_taken _ takes]
  · rw [exec, execSqTail, State.hostRequest_taken _ takes]

/-- Settles O22: a register write behind a memory entry waits at the tail, and is held while the buffer is full. -/
theorem postedRegisterWritesWait : Obligations.PostedRegisterWritesWait := by
  intro c target v s takes row
  rw [exec_postsRegister takes row, State.postRegister]
  refine ⟨fun l m d rest buffer room => ?_, fun full => ?_⟩
  · have head : s.port.headIsMemory := by simp [Port.headIsMemory, buffer]
    rw [State.presentWrite_room _ room, State.acceptEntry_register_behind _ _ head (by simp [buffer])]
  · rw [State.presentWrite_full _ full]

/-! ### The end of a host read (R32, R33) -/

/-- A read loses a word exactly when some decode is UNCORRECTABLE or POISONED (R32). -/
theorem anyLost_iff (reports : List WordReport) : anyLost reports = true ↔
    ∃ r ∈ reports, ∃ c d, r.decoded = some (c, d) ∧ (c = .uncorrectable ∨ c = .poisoned) := by
  have lost (c : DecodeClass) : c.isLost = true ↔ c = .uncorrectable ∨ c = .poisoned := by
    cases c <;> simp [DecodeClass.isLost]
  simp [anyLost, Option.any_eq_true, lost]

/-- Settles O20: the answer is read off the reports, and R33's table is folded over them. -/
theorem hostReadEndAnswers : Obligations.HostReadEndAnswers := by
  intro s line reports discarded live tenure
  have ending : s.ending (· == .hostRead) = some ⟨.hostRead, line, reports, discarded⟩ :=
    State.ending_of_tenure live tenure rfl
  refine ⟨readCode reports, s.endHostRead ⟨.hostRead, line, reports, discarded⟩, ?_, ?_, ?_, ?_, ?_⟩
  · rw [exec, execHostReadEnd, ending]
  · rw [← anyLost_iff, readCode]
    cases anyLost reports <;> simp
  · rw [readCode]
    cases anyLost reports <;> simp
  · exact Accounted.foldl (State.handReadWord_accounted line) reports _
  · refine congrArg (fun f => reports.foldl f _) ?_
    funext t r
    exact State.handReadWord_eq line t r

end Sys2Proof.Machine
end

section
/-!
The registers (R39, R40, R110, R121, R174, R176, R182): the fields of a register and what they read, and the writes that
are answered at once. Settled here: O27 and O28.
-/

namespace Sys2Proof.Machine

/-! ### The fields of a register (11.6) -/

section
variable (value : Nat) {lo len : Nat}

/-- A field's bits are its value's lowest bits, shifted to its place; every other bit is 0. -/
theorem getLsbD_registerField (i : Nat) : (registerField value lo len).getLsbD i
    = (decide (i < 32) && (decide (lo ≤ i) && (decide (i - lo < len) && value.testBit (i - lo)))) := by
  simp [registerField, BitVec.getLsbD_ofNat, Nat.testBit_shiftLeft, Nat.testBit_mod_two_pow]

/-- A field sets no bit that the mask of the named bits leaves out. -/
theorem registerField_named {mask : BitVec 32} (named : ∀ i < 32, lo ≤ i → i < lo + len → mask.getLsbD i = true) :
    registerField value lo len &&& ~~~mask = 0#32 := by
  refine BitVec.eq_of_getLsbD_eq fun i inside => ?_
  by_cases field : lo ≤ i ∧ i < lo + len
  · simp [named i inside field.1 field.2]
  · have outside : (registerField value lo len).getLsbD i = false := by
      rw [getLsbD_registerField]
      simp only [Bool.and_eq_false_imp, decide_eq_true_eq]
      omega
    simp [outside]

/-- A field reads its value's lowest bits at its own place. -/
theorem extractLsb'_registerField_same (inside : lo + len ≤ 32) :
    (registerField value lo len).extractLsb' lo len = BitVec.ofNat len value := by
  refine BitVec.eq_of_getLsbD_eq fun i place => ?_
  rw [BitVec.getLsbD_extractLsb', getLsbD_registerField, BitVec.getLsbD_ofNat]
  simp [place, show lo + i < 32 by omega]

/-- A field reads 0 at every place apart from its own. -/
theorem extractLsb'_registerField_apart {lo' len' : Nat} (apart : lo + len ≤ lo' ∨ lo' + len' ≤ lo) :
    (registerField value lo len).extractLsb' lo' len' = 0#len' := by
  refine BitVec.eq_of_getLsbD_eq fun i place => ?_
  rw [BitVec.getLsbD_extractLsb', getLsbD_registerField]
  simp only [BitVec.getLsbD_zero, Bool.and_eq_false_imp, decide_eq_true_eq]
  omega

/-- A field of one bit reads its value's lowest bit. -/
theorem getLsbD_registerField_same {i : Nat} (inside : i < 32) : (registerField value i 1).getLsbD i = value.testBit 0 := by
  rw [getLsbD_registerField]
  simp only [inside, decide_true, Nat.le_refl, Nat.sub_self, Nat.one_pos, Bool.true_and]

/-- A field sets no bit apart from its own. -/
theorem getLsbD_registerField_apart {i : Nat} (apart : i < lo ∨ lo + len ≤ i) :
    (registerField value lo len).getLsbD i = false := by
  rw [getLsbD_registerField]
  simp only [Bool.and_eq_false_imp, decide_eq_true_eq]
  omega

end

theorem testBit_oneBit (b : Bool) : (oneBit b).testBit 0 = b := by cases b <;> rfl

/-- A register that holds one narrow field from bit 0 on reads 0 above it. -/
theorem setWidth_named {n : Nat} (x : BitVec n) {mask : BitVec 32} (named : ∀ i < n, mask.getLsbD i = true) :
    x.setWidth 32 &&& ~~~mask = 0#32 := by
  refine BitVec.eq_of_getLsbD_eq fun i inside => ?_
  by_cases field : i < n
  · simp [named i field]
  · simp [BitVec.getLsbD_of_ge x i (Nat.le_of_not_lt field)]

/-- A register that holds one narrow field from bit 0 on reads it there. -/
theorem extractLsb'_setWidth_same {n : Nat} (x : BitVec n) (fits : n ≤ 32) : (x.setWidth 32).extractLsb' 0 n = x := by
  rw [BitVec.extractLsb'_setWidth_of_le (by omega), BitVec.extractLsb'_eq_self]

/-- Two parts of a register that set named bits alone make up a register that does. -/
theorem or_named {a b mask : BitVec 32} (ha : a &&& ~~~mask = 0#32) (hb : b &&& ~~~mask = 0#32) :
    (a ||| b) &&& ~~~mask = 0#32 := by
  rw [BitVec.and_or_distrib_right, ha, hb, BitVec.or_zero]

/-- The class bit and the kind code of FAULT_INFO stand side by side (11.6). -/
theorem registerField_captureKind (k : CaptureKind) :
    registerField (oneBit k.isClassA) 1 1 ||| registerField k.code 2 2 = registerField (match k with
      | .corrected _ => 0 | .uncorrectable => 3 | .poisonRead => 5 | .mergeFailed => 7) 1 3 := by
  cases k with
  | corrected _ => exact (by decide : registerField 0 1 1 ||| registerField 0 2 2 = registerField 0 1 3)
  | uncorrectable | poisonRead | mergeFailed => rfl

/-! ### The registers by their fields -/

section
variable (s : State)

/-- CTRL shows the enables (R109). -/
theorem State.ctrlValue_shows : s.ctrlValue &&& ~~~0x00000700#32 = 0#32
    ∧ s.ctrlValue.getLsbD 8 = s.engine.enables.comp ∧ s.ctrlValue.getLsbD 9 = s.engine.enables.event
    ∧ s.ctrlValue.getLsbD 10 = s.engine.enables.halt := by
  unfold State.ctrlValue
  refine ⟨?_, ?_, ?_, ?_⟩
  · repeat' with_reducible apply or_named
    all_goals exact registerField_named _ (by decide)
  all_goals
    simp (disch := omega) only [BitVec.getLsbD_or, getLsbD_registerField_same, getLsbD_registerField_apart, testBit_oneBit,
      Bool.or_false, Bool.false_or]

/-- STAT sets no bit but those of its seven fields (R110). -/
theorem State.statValue_named : s.statValue &&& ~~~0x000F0777#32 = 0#32 := by
  unfold State.statValue
  repeat' with_reducible apply or_named
  all_goals exact registerField_named _ (by decide)

/-- STAT shows the three codes of the engine (R110). -/
theorem State.statValue_codes : s.statValue.extractLsb' 0 3 = BitVec.ofNat 3 s.engine.state.code
    ∧ s.statValue.extractLsb' 4 3 = BitVec.ofNat 3 s.engine.haltCause.code
    ∧ s.statValue.extractLsb' 8 3 = BitVec.ofNat 3 s.engine.startError.code := by
  unfold State.statValue
  refine ⟨?_, ?_, ?_⟩
  all_goals
    simp (disch := omega) only [BitVec.extractLsb'_or, extractLsb'_registerField_same, extractLsb'_registerField_apart,
      BitVec.or_zero, BitVec.zero_or]

/-- STAT shows whether a migration runs, the buffer is empty, completions wait and events were lost (R110). -/
theorem State.statValue_flags : s.statValue.getLsbD 16 = s.tables.migration.isSome
    ∧ s.statValue.getLsbD 17 = s.port.buffer.isEmpty ∧ s.statValue.getLsbD 18 = !s.admission.backlog.isEmpty
    ∧ s.statValue.getLsbD 19 = s.news.overflow.isSome := by
  unfold State.statValue
  refine ⟨?_, ?_, ?_, ?_⟩
  all_goals
    simp (disch := omega) only [BitVec.getLsbD_or, getLsbD_registerField_same, getLsbD_registerField_apart, testBit_oneBit,
      Bool.or_false, Bool.false_or]

/-- FAULT_ADDR and FAULT_INFO read 0 while nothing is captured (R174). -/
theorem State.fault_values_of_none (empty : s.news.capture = none) : s.faultAddrValue = 0#32 ∧ s.faultInfoValue = 0#32 := by
  simp [State.faultAddrValue, State.faultInfoValue, empty]

variable {s} {c : Capture} (captured : s.news.capture = some c)
include captured

/-- FAULT_ADDR shows the line of the captured error (R174). -/
theorem State.faultAddrValue_some : s.faultAddrValue = registerField c.line 0 28 := by
  simp [State.faultAddrValue, captured]

/-- FAULT_INFO of the captured error, its class and kind as one field (R174). -/
theorem State.faultInfoValue_some : s.faultInfoValue = registerField 1 0 1 ||| registerField (match c.kind with
      | .corrected _ => 0 | .uncorrectable => 3 | .poisonRead => 5 | .mergeFailed => 7) 1 3
    ||| registerField c.source.code 4 3 ||| registerField c.word 8 3 ||| registerField c.kind.bitPosition 16 7
    ||| registerField (oneBit c.more) 30 1 := by
  simp only [State.faultInfoValue, captured, BitVec.or_assoc (registerField 1 0 1), registerField_captureKind]

/-- FAULT_INFO sets no bit but those of its fields (R174). -/
theorem State.faultInfoValue_named : s.faultInfoValue &&& ~~~0x407F077F#32 = 0#32 := by
  rw [State.faultInfoValue_some captured]
  repeat' with_reducible apply or_named
  all_goals exact registerField_named _ (by decide)

/-- FAULT_INFO shows what was captured (R174). -/
theorem State.faultInfoValue_codes : s.faultInfoValue.extractLsb' 1 3 = BitVec.ofNat 3 (match c.kind with
      | .corrected _ => 0 | .uncorrectable => 3 | .poisonRead => 5 | .mergeFailed => 7)
    ∧ s.faultInfoValue.extractLsb' 4 3 = BitVec.ofNat 3 c.source.code
    ∧ s.faultInfoValue.extractLsb' 8 3 = BitVec.ofNat 3 c.word
    ∧ s.faultInfoValue.extractLsb' 16 7 = BitVec.ofNat 7 c.kind.bitPosition := by
  rw [State.faultInfoValue_some captured]
  refine ⟨?_, ?_, ?_, ?_⟩
  all_goals
    simp (disch := omega) only [BitVec.extractLsb'_or, extractLsb'_registerField_same, extractLsb'_registerField_apart,
      BitVec.or_zero, BitVec.zero_or]

/-- FAULT_INFO shows that an error is captured, and whether more came (R174). -/
theorem State.faultInfoValue_flags : s.faultInfoValue.getLsbD 0 = true ∧ s.faultInfoValue.getLsbD 30 = c.more := by
  rw [State.faultInfoValue_some captured]
  refine ⟨?_, ?_⟩
  all_goals
    simp (disch := omega) only [BitVec.getLsbD_or, getLsbD_registerField_same, getLsbD_registerField_apart, testBit_oneBit,
      Nat.testBit_one_zero, Bool.or_false, Bool.false_or]

end

/-- Settles O28, register by register; the codes are read off 11.1 and 11.6. -/
theorem registerReadsShowNamedFieldsOnly : Obligations.RegisterReadsShowNamedFieldsOnly := by
  intro s bit field
  obtain ⟨state, halt, start⟩ := s.statValue_codes
  refine ⟨s.ctrlValue_shows, ⟨s.statValue_named, ?_, ?_, ?_, s.statValue_flags⟩,
    ⟨setWidth_named s.engine.anchor (by decide), extractLsb'_setWidth_same _ (by decide)⟩,
    ⟨setWidth_named s.engine.sqTail (by decide), extractLsb'_setWidth_same _ (by decide)⟩,
    ⟨setWidth_named s.engine.cqHead (by decide), extractLsb'_setWidth_same _ (by decide)⟩,
    ⟨setWidth_named s.engine.eqHead (by decide), extractLsb'_setWidth_same _ (by decide)⟩,
    s.fault_values_of_none, fun c captured => ?_, fun offset unnamed => ?_⟩
  · refine (congrArg BitVec.toNat state).trans ?_
    cases s.engine.state <;> rfl
  · refine (congrArg BitVec.toNat halt).trans ?_
    cases s.engine.haltCause <;> rfl
  · refine (congrArg BitVec.toNat start).trans ?_
    cases s.engine.startError <;> rfl
  · obtain ⟨kind, source, word, position⟩ := State.faultInfoValue_codes captured
    obtain ⟨valid, more⟩ := State.faultInfoValue_flags captured
    have addr : s.readRegister 0x18 = registerField c.line 0 28 := State.faultAddrValue_some captured
    refine ⟨?_, ?_, State.faultInfoValue_named captured, valid, ?_, ?_, (congrArg BitVec.toNat word).trans (by simp), ?_,
      more⟩
    · rw [addr]
      exact registerField_named _ (by decide)
    · have line := extractLsb'_registerField_same c.line (lo := 0) (len := 28) (by decide)
      simp only [field, addr, line, BitVec.toNat_ofNat]
    · refine (congrArg BitVec.toNat kind).trans ?_
      cases c.kind <;> rfl
    · refine (congrArg BitVec.toNat source).trans ?_
      cases c.source <;> rfl
    · refine (congrArg BitVec.toNat position).trans ?_
      cases c.kind with
      | corrected b => exact Nat.mod_eq_of_lt (Nat.lt_trans b.isLt (by decide))
      | uncorrectable | poisonRead | mergeFailed => rfl
  · simp only [List.mem_cons, List.not_mem_nil, or_false, not_or] at unnamed
    simp [State.readRegister, unnamed]

/-! ### Writes answered at once (R40) -/

/-- Settles O27: each register write by its own row, the others by their offset. -/
theorem unpostedRegisterWrites : Obligations.UnpostedRegisterWrites := by
  intro v s takes u
  have other (offset : Nat) : exec (.registerWriteOther offset v) s = .next (s.writeRegister offset v) := by
    rw [exec, execRegisterWriteOther, State.hostRequest_taken _ takes]
  have emptied := State.fault_values_of_none (u.withNews { s.news with capture := none }) rfl
  refine ⟨?_, fun clear => ⟨?_, emptied⟩, fun offset unnamed => ?_, fun keep => ?_⟩
  · rw [exec, execAnchor, State.hostRequest_taken _ takes, BitVec.setWidth_eq_extractLsb' (by decide)]
    rfl
  · have value : v ||| 0x80000000#32 = v := or_twoPow_of_getLsbD v _ 31 rfl clear
    rw [exec, execFaultInfoClear, State.hostRequest_taken _ takes, value, State.acceptFaultInfo, if_pos clear]
    rfl
  · rw [other]
    simp only [List.mem_cons, List.not_mem_nil, or_false, not_or] at unnamed
    simp [State.writeRegister, unnamed, State.respond, u]
  · have row : s.writeRegister 0x1C v = s.acceptFaultInfo v := rfl
    rw [other, row, State.acceptFaultInfo, if_neg (Bool.eq_false_iff.1 keep)]
    rfl

end Sys2Proof.Machine
end

section
/-!
The Region Table's lookup (R43, R44) and the commands SET_REGION, SET_PATROL and FENCE (R46, R105, R137, R163 to R165).
Settled here: O57.
-/

namespace Sys2Proof.Machine

/-! ### The lookup gives the highest-indexed entry that covers (R44) -/

theorem Region.covers_iff (r : Region) (address : Nat) :
    r.covers address = true ↔ r.base ≤ address ∧ address < r.base + 2 ^ r.exponent := by
  simp [Region.covers]

/-- R44 of a list of entries: the attributes are those of the highest-indexed valid entry that covers the address, or the
fallback where none does. -/
def LastCovering (entries : List (Option Region)) (fallback : Attributes) (address : Nat) (a : Attributes) : Prop :=
  (∃ (i : Nat) (r : Region), entries[i]? = some (some r) ∧ (r.base ≤ address ∧ address < r.base + 2 ^ r.exponent)
    ∧ a = r.attributes ∧ ∀ (j : Nat) (q : Region), i < j → entries[j]? = some (some q) →
      ¬(q.base ≤ address ∧ address < q.base + 2 ^ q.exponent))
  ∨ (a = fallback ∧ ∀ (i : Nat) (r : Region), entries[i]? = some (some r) →
      ¬(r.base ≤ address ∧ address < r.base + 2 ^ r.exponent))

section
variable {rest : List (Option Region)} {fallback a : Attributes} {address : Nat}

/-- A first entry that does not cover the address makes no difference. -/
theorem LastCovering.cons_other {p : Option Region}
    (other : ∀ r, p = some r → ¬(r.base ≤ address ∧ address < r.base + 2 ^ r.exponent))
    (h : LastCovering rest fallback address a) : LastCovering (p :: rest) fallback address a := by
  rcases h with ⟨i, r, entry, covers, rfl, last⟩ | ⟨rfl, noneCovers⟩
  · refine .inl ⟨i + 1, r, entry, covers, rfl, fun j q behind later => ?_⟩
    obtain ⟨j, rfl⟩ := Nat.exists_eq_succ_of_ne_zero (Nat.ne_of_gt (Nat.zero_lt_of_lt behind))
    exact last j q (Nat.lt_of_succ_lt_succ behind) later
  · refine .inr ⟨rfl, fun i r entry => ?_⟩
    cases i with
    | zero => exact other r (by simpa using entry)
    | succ i => exact noneCovers i r entry

/-- A first entry that covers the address gives the attributes unless a later one does. -/
theorem LastCovering.cons_covers {r : Region} (covers : r.base ≤ address ∧ address < r.base + 2 ^ r.exponent)
    (h : LastCovering rest r.attributes address a) : LastCovering (some r :: rest) fallback address a := by
  rcases h with ⟨i, q, entry, later, rfl, last⟩ | ⟨rfl, noneCovers⟩
  · refine .inl ⟨i + 1, q, entry, later, rfl, fun j p behind entry' => ?_⟩
    obtain ⟨j, rfl⟩ := Nat.exists_eq_succ_of_ne_zero (Nat.ne_of_gt (Nat.zero_lt_of_lt behind))
    exact last j p (Nat.lt_of_succ_lt_succ behind) entry'
  · refine .inl ⟨0, r, rfl, covers, rfl, fun j q behind entry => ?_⟩
    obtain ⟨j, rfl⟩ := Nat.exists_eq_succ_of_ne_zero (Nat.ne_of_gt behind)
    exact noneCovers j q entry

end

/-- The lookup follows R44. -/
theorem lookupFrom_lastCovering (entries : List (Option Region)) (fallback : Attributes) (address : Nat) :
    LastCovering entries fallback address (lookupFrom entries fallback address) := by
  induction entries generalizing fallback with
  | nil => exact .inr ⟨rfl, fun i r entry => by simp at entry⟩
  | cons p rest ih =>
    cases p with
    | none => exact (ih fallback).cons_other (by rintro r ⟨⟩)
    | some r =>
      rw [lookupFrom]
      by_cases covers : r.covers address = true
      · rw [if_pos covers]
        exact (ih _).cons_covers ((r.covers_iff address).1 covers)
      · rw [if_neg covers]
        refine (ih _).cons_other ?_
        rintro _ ⟨⟩
        exact fun inside => covers ((r.covers_iff address).2 inside)

/-- Two addresses that the same entries cover get the same attributes. -/
theorem lookupFrom_congr (entries : List (Option Region)) (fallback : Attributes) {a b : Nat}
    (same : ∀ r, some r ∈ entries → r.covers a = r.covers b) :
    lookupFrom entries fallback a = lookupFrom entries fallback b := by
  induction entries generalizing fallback with
  | nil => rfl
  | cons p rest ih =>
    have behind := fun r (inside : some r ∈ rest) => same r (List.mem_cons_of_mem p inside)
    cases p with
    | none => exact ih fallback behind
    | some r => rw [lookupFrom, lookupFrom, same r (List.mem_cons_self ..), ih _ behind]

/-- A region that R43 allows covers a whole host frame or none of it. -/
theorem Region.covers_frame {r : Region} (large : 20 ≤ r.exponent) (aligned : 2 ^ r.exponent ∣ r.base) (line : Nat) :
    r.covers (line * 64) = r.covers (line / 64 * 4096) := by
  have frames : 4096 ∣ 2 ^ r.exponent := pow_dvd_pow 2 (Nat.le_trans (by decide : 12 ≤ 20) large)
  obtain ⟨size, size_eq⟩ := frames
  obtain ⟨first, base_eq⟩ := Dvd.dvd.trans ⟨size, size_eq⟩ aligned
  rw [Bool.eq_iff_iff, Region.covers_iff, Region.covers_iff, size_eq, base_eq]
  omega

/-! ### A record presented with nothing ahead of it (R134, R135) -/

/-- Every slot is empty exactly when every place of the list is free (R137). -/
theorem State.allFree_slots_iff (s : State) : allFree s.admission.slots = true ↔ ∀ k, s.slotAt k = none := by
  simp only [allFree, List.all_eq_true, State.slotAt, placeAt]
  constructor
  · intro free k
    rcases place : s.admission.slots[k]? with _ | p
    · rfl
    · simpa using free p (List.mem_of_getElem? place)
  · intro free p inside
    obtain ⟨k, place⟩ := List.mem_iff_getElem?.1 inside
    simpa [place] using free k

/-- A record that passes R131's checks and may not issue stands alone in the list (R134, R135). -/
theorem State.presentRecord_stands (s : State) (tag : Tag) (c : Command) (admits : s.admits = true)
    (nothingAhead : s.admission.pendingList = []) (fields : c.fieldsOk s.straps.spareFrames = true)
    (addresses : c.addressesOk s.straps.hostFrames = true) (fresh : tag ∉ s.tagSet) (mayNot : s.mayIssue c = false)
    (notAbort : ∀ t, c ≠ .abort t) : s.presentRecord tag c
      = .next (s.withAdmission { s.admission with pendingList := [⟨tag, c⟩] }).conclude := by
  have mayNot' : (s.withAdmission { s.admission with pendingList := [⟨tag, c⟩] }).mayIssue c = false := by
    rw [← mayNot]
    cases c <;> rfl
  rw [State.presentRecord, if_pos admits, State.takeRecord_joins s _ c rfl fields addresses fresh notAbort, nothingAhead]
  simp [State.issueAll, issueFrom, mayNot']

/-- Settles O57: the lookup by R44, then each command as it issues; a FENCE behind an occupied slot stands. -/
theorem regionPatrolAndFence : Obligations.RegionPatrolAndFence := by
  refine ⟨fun t number => ⟨lookupFrom_lastCovering .., lookupFrom_lastCovering .., fun allowed => ?_⟩,
    fun tag s admits nothingAhead fresh => ⟨fun index base n attributes inTable => ⟨fun least most aligned => ?_, ?_⟩,
      fun enable interval restart runs => ?_, fun empty => ?_, fun occupied => ?_⟩⟩
  · exact lookupFrom_congr _ _ fun r inside => Region.covers_frame (allowed r inside).1 (allowed r inside).2 number
  · exact s.presentRecord_issues tag (.setRegion index.toNat true base.toNat n.toNat (attributesOfBits attributes)) admits
      nothingAhead (by simp [Command.fieldsOk, inTable, least, most, Nat.mod_eq_zero_of_dvd aligned]) rfl fresh rfl nofun
  · exact s.presentRecord_issues tag (.setRegion index.toNat false base.toNat n.toNat (attributesOfBits attributes)) admits
      nothingAhead (by simp [Command.fieldsOk, inTable]) rfl fresh rfl nofun
  · refine (s.presentRecord_issues tag (.setPatrol enable interval restart) admits nothingAhead
      (by simpa [Command.fieldsOk] using runs) rfl fresh rfl nofun).trans ?_
    simp only [State.issueCommand, State.issueSetPatrol, Patrol.set]
    cases s.patrol.phase <;> rfl
  · exact s.presentRecord_issues tag .fence admits nothingAhead rfl rfl fresh (s.allFree_slots_iff.2 empty) nofun
  · refine s.presentRecord_stands tag .fence admits nothingAhead rfl rfl fresh ?_ nofun
    obtain ⟨k, taken⟩ := occupied
    exact Bool.eq_false_iff.2 fun free => taken (s.allFree_slots_iff.1 free k)

end Sys2Proof.Machine
end

section
/-!
What a posted register write does when it is delivered (R41, R109 to R116, R121), and the engine reset (R124) with what
it makes of the tables (R47, R63, R84, R99). Settled here: O24.
-/

namespace Sys2Proof.Machine

/-! ### The tables after an engine reset (R63, R84, R99) -/

section
variable (t : Tables) {frame f : Nat}

/-- The entries of other frames stand when one frame's entry is taken out. -/
theorem Tables.entryOf_removeEntry_other (other : f ≠ frame) : (t.removeEntry frame).entryOf f = t.entryOf f := by
  rw [Tables.entryOf, Tables.removeEntry, List.find?_filter, Tables.entryOf]
  congr 1
  funext e
  by_cases mine : e.frame = f <;> simp [mine, other]

theorem Tables.entryOf_removeEntry (frame : Nat) : (t.removeEntry frame).entryOf frame = none := by
  simp [Tables.entryOf, Tables.removeEntry]

/-- The entries of other frames stand when one frame's entry is put. -/
theorem Tables.entryOf_putEntry_other (st : RemapState) (other : f ≠ frame) :
    (t.putEntry frame st).entryOf f = t.entryOf f := by
  rw [← t.entryOf_removeEntry_other other, Tables.entryOf, Tables.putEntry, List.find?_cons_of_neg (by simpa using other.symm)]
  rfl

/-! A reverted migration leaves no record and its target spare FREE, and the other tables stand (R63, R84). -/

@[simp] theorem Tables.revert_migration (m : MigrationRecord) : (t.revert m).migration = none := by
  unfold Tables.revert; cases m.old <;> rfl
@[simp] theorem Tables.revert_spares (m : MigrationRecord) : (t.revert m).spares = t.spares.set m.target .free := by
  unfold Tables.revert; cases m.old <;> rfl
@[simp] theorem Tables.revert_regions (m : MigrationRecord) : (t.revert m).regions = t.regions := by
  unfold Tables.revert; cases m.old <;> rfl
@[simp] theorem Tables.revert_suspects (m : MigrationRecord) : (t.revert m).suspects = t.suspects := by
  unfold Tables.revert; cases m.old <;> rfl
@[simp] theorem Tables.revert_evictionPointer (m : MigrationRecord) :
    (t.revert m).evictionPointer = t.evictionPointer := by
  unfold Tables.revert; cases m.old <;> rfl

/-- A reverted migration gives its frame back to its source: the old spare, or the frame itself (R63, R84). -/
theorem Tables.revert_entryOf (m : MigrationRecord) : (t.revert m).entryOf m.frame = m.old.map (⟨m.frame, .active ·⟩) := by
  unfold Tables.revert
  cases m.old with
  | none => exact Tables.entryOf_removeEntry ..
  | some c => exact Tables.entryOf_putEntry ..

theorem Tables.revert_entryOf_other (m : MigrationRecord) (other : f ≠ m.frame) :
    (t.revert m).entryOf f = t.entryOf f := by
  unfold Tables.revert
  cases m.old with
  | none => exact Tables.entryOf_removeEntry_other (t.setSpare m.target .free) other
  | some c => exact Tables.entryOf_putEntry_other (t.setSpare m.target .free) _ other

end

/-- The entry that backs a frame by its source alone, if it needs one (R63). -/
def RemapEntry.reverted (e : RemapEntry) : Option RemapEntry := e.state.current?.map (⟨e.frame, .active ·⟩)

theorem RemapEntry.reverted_of_active {e : RemapEntry} (active : e.state.isMigrating = false) : e.reverted = some e := by
  rcases e with ⟨f, c | m⟩
  · rfl
  · cases active

section
variable {t : Tables} (tables : t.Consistent)
include tables

/-- The MIGRATING entries are those of the Migration Unit's record (R51). -/
theorem Tables.Consistent.migrating_iff {frame : Nat} {e : RemapEntry} (entry : t.entryOf frame = some e) :
    e.state.isMigrating = true ↔ ∃ m, t.migration = some m ∧ m.frame = frame := by
  obtain ⟨inside, rfl⟩ := Tables.entryOf_some entry
  refine ⟨tables.entry e inside, ?_⟩
  rintro ⟨m, copying, same⟩
  obtain ⟨cursor, -, record⟩ := tables.unit m copying
  have found := tables.entryOf_eq record
  rw [same] at found
  exact congrArg (·.state.isMigrating) (Option.some.inj (entry.symm.trans found))

/-- The spares in state TARGET are the target of the migration in progress (R51). -/
theorem Tables.Consistent.target_iff (k : Nat) :
    t.spares[k]? = some .target ↔ ∃ m, t.migration = some m ∧ m.target = k := by
  rw [tables.target]
  constructor
  · rintro ⟨⟨frame, c | ⟨current, target, cursor⟩⟩, inside, named⟩ <;> cases named
    obtain ⟨m, copying, rfl⟩ := tables.entry _ inside rfl
    obtain ⟨_, -, record⟩ := tables.unit m copying
    have same := tables.entryOf_eq record
    rw [show t.entryOf m.frame = _ from tables.entryOf_eq inside] at same
    cases same
    exact ⟨m, copying, rfl⟩
  · rintro ⟨m, copying, rfl⟩
    obtain ⟨_, -, record⟩ := tables.unit m copying
    exact ⟨_, record, rfl⟩

/-- An engine reset backs every frame by its source alone: ACTIVE entries stand, the MIGRATING one is reverted (R63, R84). -/
theorem Tables.Consistent.engineReset_entryOf (frame : Nat) :
    t.engineReset.entryOf frame = (t.entryOf frame).bind RemapEntry.reverted := by
  have stands (notMigrating : ∀ m, t.migration = some m → m.frame ≠ frame) :
      t.entryOf frame = (t.entryOf frame).bind RemapEntry.reverted := by
    cases entry : t.entryOf frame with
    | none => rfl
    | some e =>
      refine (RemapEntry.reverted_of_active (Bool.eq_false_iff.2 fun migrating => ?_)).symm
      obtain ⟨m, copying, mine⟩ := (tables.migrating_iff entry).1 migrating
      exact notMigrating m copying mine
  unfold Tables.engineReset
  cases copying : t.migration with
  | none => exact stands (by simp [copying])
  | some m =>
    by_cases mine : frame = m.frame
    · obtain ⟨cursor, -, record⟩ := tables.unit m copying
      rw [mine, tables.entryOf_eq record]
      exact t.revert_entryOf m
    · refine (t.revert_entryOf_other m mine).trans (stands fun m' copying' => ?_)
      cases copying.symm.trans copying'
      exact Ne.symm mine

/-- An engine reset frees the target spare and leaves the other spares (R84). -/
theorem Tables.Consistent.engineReset_spares :
    t.engineReset.spares = t.spares.map fun st => if st = .target then .free else st := by
  refine List.ext_getElem? fun k => ?_
  have target := tables.target_iff k
  unfold Tables.engineReset
  cases copying : t.migration with
  | none =>
    rw [List.getElem?_map]
    rcases place : t.spares[k]? with _ | st
    · simp
    · have other : st ≠ .target := by
        rintro rfl
        simp [place, copying] at target
      simp [other]
  | some m =>
    simp only [t.revert_spares m, List.getElem?_map, List.getElem?_set]
    simp only [copying, Option.some.injEq, exists_eq_left'] at target
    by_cases mine : m.target = k
    · have place := target.2 mine
      obtain ⟨inside, -⟩ := List.getElem?_eq_some_iff.1 place
      rw [place, if_pos mine, mine, if_pos inside]
      rfl
    · rcases place : t.spares[k]? with _ | st
      · simp [mine]
      · have other : st ≠ .target := by
          rintro rfl
          exact mine (target.1 place)
        simp [mine, other]

end

/-- QUEUED and MIGRATING return to NONE, REFUSED stands, and so do the counts (R99). -/
theorem SuspectEntry.unpin_eq (e : SuspectEntry) :
    e.unpin = { e with retire := if e.retire = .refused then .refused else .none } := by
  rcases e with ⟨f, c, u, l, w, _ | _ | _ | _⟩ <;> rfl

/-- What of the tables no entry decides: the regions and the eviction pointer stand, the Retire Queue is empty, the
defaults are clear, the Migration Unit is IDLE, and the suspects are unpinned (R47, R84, R99). -/
theorem Tables.engineReset_eq (t : Tables) : t.engineReset = { t with
    remap := t.engineReset.remap, spares := t.engineReset.spares, retireQueue := [], migration := none
    defaults := .clear, suspects := t.suspects.map (Option.map SuspectEntry.unpin) } := by
  unfold Tables.engineReset
  cases copying : t.migration with
  | none => simp [copying]
  | some m => simp

/-! ### SQ_TAIL delivered (R121, R122) -/

/-- The low 16 bits of a register value as a number. -/
theorem toNat_extractLsb'_16 (v : BitVec 32) : (v.extractLsb' 0 16).toNat = v.toNat % 2 ^ 16 := by
  simp

section
variable {t : State} {v : BitVec 32}

/-- An SQ_TAIL below N is taken while the rings run. -/
theorem State.deliver_sqTail_legal {r : Rings} (posts : t.engine.state.posts = true) (rings : t.engine.rings = some r)
    (below : v.toNat % 2 ^ 16 < 2 ^ r.sq.exponent) :
    t.deliver .sqTail v = t.withEngine { t.engine with sqTail := v.setWidth 16 } := by
  have legal : (v.extractLsb' 0 16).toNat < r.sq.entries := by rwa [toNat_extractLsb'_16]
  rw [BitVec.setWidth_eq_extractLsb' (by decide), State.deliver, State.writeSqTail, posts, rings]
  simp only [if_pos legal]
  rfl

/-- An SQ_TAIL of N or above halts the engine while the rings run. -/
theorem State.deliver_sqTail_illegal {r : Rings} (posts : t.engine.state.posts = true) (rings : t.engine.rings = some r)
    (beyond : 2 ^ r.sq.exponent ≤ v.toNat % 2 ^ 16) : t.deliver .sqTail v = t.halt .badSqTail := by
  have illegal : ¬ (v.extractLsb' 0 16).toNat < r.sq.entries := by
    rw [toNat_extractLsb'_16]
    exact Nat.not_lt.2 beyond
  rw [State.deliver, State.writeSqTail, posts, rings]
  simp only [if_neg illegal]

/-- While the rings do not run an SQ_TAIL is stored unchecked. -/
theorem State.deliver_sqTail_unchecked (stopped : t.engine.state.posts = false) :
    t.deliver .sqTail v = t.withEngine { t.engine with sqTail := v.setWidth 16 } := by
  rw [BitVec.setWidth_eq_extractLsb' (by decide), State.deliver, State.writeSqTail, stopped]
  rfl

end

/-! ### The actions of CTRL (R111, R115, R116) -/

section
variable {s : State}

/-- START in OFF asks for the anchor read, where the anchor lies in host memory (R111). -/
theorem State.startAction_off (off : s.engine.state = .off) (inHost : s.engine.anchor.toNat < s.straps.hostFrames * 64) :
    s.startAction = s.withEngine { s.engine with
      state := .starting, startError := .none, sqTail := 0#16, cqHead := 0#16, eqHead := 0#16
      anchorRequest := some s.engine.anchor.toNat } := by
  rw [State.startAction, off]
  exact if_neg (Nat.not_le.2 inHost)

/-- START in OFF fails at once where the anchor lies beyond host memory (R111). -/
theorem State.startAction_off_beyond (off : s.engine.state = .off)
    (beyond : s.straps.hostFrames * 64 ≤ s.engine.anchor.toNat) :
    s.startAction = s.withEngine { s.engine with
      startError := .anchorUnreadable, sqTail := 0#16, cqHead := 0#16, eqHead := 0#16 } := by
  rw [State.startAction, off]
  exact if_pos beyond

/-- START in QUIESCED resumes (R115). -/
theorem State.startAction_quiesced (quiesced : s.engine.state = .quiesced) :
    s.startAction = s.withEngine { s.engine with state := .running } := by
  rw [State.startAction, quiesced]
  rfl

/-- QUIESCE in RUNNING reaches QUIESCED at once where nothing works, else QUIESCING (R116). -/
theorem State.quiesceAction_running (runs : s.engine.state = .running) :
    s.quiesceAction = s.withEngine { s.engine with
      state := if s.admission.pendingList = [] ∧ s.admission.slots.all (·.isNone) = true ∧ s.admission.backlog = []
          ∧ s.fetchInTenure = false then .quiesced else .quiescing } := by
  rw [State.quiesceAction, runs]
  refine (State.quiesceTest_eq _).trans ?_
  refine congrArg s.withEngine ?_
  by_cases idle : s.admission.pendingList = [] ∧ s.admission.slots.all (·.isNone) = true ∧ s.admission.backlog = []
      ∧ s.fetchInTenure = false
  · rw [if_pos idle]
    exact if_pos ⟨rfl, idle⟩
  · rw [if_neg idle]
    exact if_neg fun test => idle test.2

/-- QUIESCE elsewhere than in RUNNING does nothing (R109). -/
theorem State.quiesceAction_ignored (other : s.engine.state ≠ .running) : s.quiesceAction = s := by
  unfold State.quiesceAction
  cases here : s.engine.state with
  | running => exact absurd here other
  | off | starting | quiescing | quiesced | halted => rfl

end

/-! ### CTRL delivered (R109) -/

/-- The engine with the enables of a CTRL value taken. -/
def Engine.enabling (e : Engine) (v : BitVec 32) : Engine :=
  { e with enables := ⟨v.getLsbD 8, v.getLsbD 9, v.getLsbD 10⟩ }

/-- An engine reset group by group (R124, R125): the reports of every tenure but PORT's are discarded. -/
theorem State.engineReset_eq (s : State) : s.engineReset = { s with
    arbiter := { s.arbiter with tenure := s.arbiter.tenure.map fun x =>
      if x.work = .hostRead ∨ x.work = .drain then x else { x with discarded := true } }
    tables := s.tables.engineReset
    patrol := ⟨false, 1000#16, 0, .idle, false⟩
    engine := {
      state := .off, haltCause := .none, startError := .none, enables := s.engine.enables, anchor := s.engine.anchor
      sqTail := 0#16, cqHead := 0#16, eqHead := 0#16, anchorRequest := none, rings := none, threshold := 16
      reportCorrected := false }
    admission := ⟨[], List.replicate 4 none, []⟩
    news := { s.news with events := [], overflow := none } } := by
  have discards : (fun x : Tenure => if x.work.ofEngine then { x with discarded := true } else x)
      = fun x => if x.work = .hostRead ∨ x.work = .drain then x else { x with discarded := true } := by
    funext x
    cases work : x.work <;> simp [Work.ofEngine]
  rw [← discards]
  rfl

section
variable {t : State} {v : BitVec 32}

/-- With ENGINE_RESET set, the enables are taken and the engine is reset, whatever else is set (R109, R124). -/
theorem State.deliver_ctrl_engineReset (reset : v.getLsbD 2 = true) :
    t.deliver .ctrl v = (t.withEngine (t.engine.enabling v)).engineReset := if_pos reset

variable (noReset : v.getLsbD 2 = false)
include noReset

/-- START acts in OFF and in QUIESCED, after the enables (R109). -/
theorem State.deliver_ctrl_start (start : v.getLsbD 0 = true) (acts : t.engine.state = .off ∨ t.engine.state = .quiesced) :
    t.deliver .ctrl v = (t.withEngine (t.engine.enabling v)).startAction :=
  (if_neg (Bool.eq_false_iff.1 noReset)).trans (if_pos ⟨start, acts⟩)

/-- QUIESCE acts in RUNNING, where START does not, after the enables (R109). -/
theorem State.deliver_ctrl_quiesce (quiesce : v.getLsbD 1 = true) (runs : t.engine.state = .running) :
    t.deliver .ctrl v = (t.withEngine (t.engine.enabling v)).quiesceAction := by
  refine (if_neg (Bool.eq_false_iff.1 noReset)).trans ((if_neg ?_).trans (if_pos quiesce))
  rintro ⟨-, off | quiesced⟩
  · cases runs.symm.trans off
  · cases runs.symm.trans quiesced

/-- With no action bit that acts, the enables are taken and nothing else happens (R109). -/
theorem State.deliver_ctrl_enables (noStart : v.getLsbD 0 = true → t.engine.state ≠ .off ∧ t.engine.state ≠ .quiesced)
    (noQuiesce : v.getLsbD 1 = true → t.engine.state ≠ .running) :
    t.deliver .ctrl v = t.withEngine (t.engine.enabling v) := by
  refine (if_neg (Bool.eq_false_iff.1 noReset)).trans ((if_neg ?_).trans ?_)
  · rintro ⟨start, off | quiesced⟩
    · exact (noStart start).1 off
    · exact (noStart start).2 quiesced
  · by_cases quiesce : v.getLsbD 1 = true
    · exact (if_pos quiesce).trans (State.quiesceAction_ignored (s := t.withEngine (t.engine.enabling v)) (noQuiesce quiesce))
    · exact if_neg quiesce

end

/-! ### ENGINE_RESET -/

/-- Settles O24: the write takes effect at once, and the tables follow R51's one migration. -/
theorem engineResetEffect : Obligations.EngineResetEffect := by
  refine ⟨fun v s takes empty reset => ?_, fun t tables => ?_⟩
  · have value : v ||| 4#32 = v := or_twoPow_of_getLsbD v 4#32 2 rfl reset
    have posted : exec (.engineReset v) s = .next (s.postRegister .ctrl v) :=
      exec_postsRegister takes (.inr (.inr (.inl ⟨by rw [value], rfl, reset⟩)))
    rw [posted, State.postRegister_of_empty _ _ _ empty, State.deliver_ctrl_engineReset reset, State.engineReset_eq]
    rfl
  · rw [t.engineReset_eq]
    refine ⟨rfl, rfl, rfl, rfl, rfl, ?_, fun frame => ?_, tables.engineReset_spares⟩
    · simp only [← SuspectEntry.unpin_eq]
    · refine (tables.engineReset_entryOf frame).trans ?_
      rcases entry : t.entryOf frame with _ | ⟨f, c | ⟨_ | c, k, m⟩⟩
      · rfl
      all_goals
        obtain rfl : f = frame := (Tables.entryOf_some entry).2
        rfl

end Sys2Proof.Machine
end

section
/-!
The end of a drain (R36 to R38, R41, R173): the head entry leaves, its merges are handed on, posted registers at the head
take effect, and a held write is judged. Settled here: O21.
-/

namespace Sys2Proof.Machine

/-! ### A held write (R36 step 2, R38, R41) -/

section
variable {t : State}

/-- With no write held nothing is accepted. -/
theorem State.acceptHeld_none (noWrite : ∀ e, t.port.held ≠ .writeHeld e) : t.acceptHeld = t := by
  unfold State.acceptHeld
  cases held : t.port.held with
  | writeHeld e => exact absurd held (noWrite e)
  | idle | readHeld _ _ => rfl

/-- A held write is accepted or refused with the port IDLE. -/
theorem State.acceptHeld_some {e : PostEntry} (held : t.port.held = .writeHeld e) :
    t.acceptHeld = (t.hold .idle).acceptEntry e := by
  rw [State.acceptHeld, held]

section
variable {l : Nat} {m : BitVec 64} {d : BitVec 512} (held : t.port.held = .writeHeld (.memory l m d))
include held

/-- A held memory write that no region protects joins the tail of the buffer (R38). -/
theorem State.acceptHeld_memory (head : t.port.headIsMemory) (allowed : (t.tables.attributesOfLine l).writeProtect = false) :
    t.acceptHeld = t.withPort
      { held := .idle, buffer := t.port.buffer ++ [.memory l m d], answer := some ⟨.accepted, []⟩ } :=
  (State.acceptHeld_some held).trans (State.acceptEntry_memory (s := t.hold .idle) l m d head allowed)

/-- A held memory write that a region protects is refused (R38). -/
theorem State.acceptHeld_protected (protects : (t.tables.attributesOfLine l).writeProtect = true) :
    t.acceptHeld = (t.withPort { held := .idle, buffer := t.port.buffer, answer := some ⟨.lineProtected, []⟩ }).offer
      { kind := .writeRefused, source := .hostWrite, line := l } :=
  (State.acceptHeld_some held).trans (State.acceptEntry_protected (s := t.hold .idle) l m d protects)

end

section
variable {target : PostedRegister} {v : BitVec 32} (held : t.port.held = .writeHeld (.register target v))
include held

/-- A held register write behind a memory entry joins the tail and waits (R41). -/
theorem State.acceptHeld_register_behind (head : t.port.headIsMemory) (behind : t.port.buffer ≠ []) :
    t.acceptHeld = t.withPort
      { held := .idle, buffer := t.port.buffer ++ [.register target v], answer := some ⟨.accepted, []⟩ } :=
  (State.acceptHeld_some held).trans (State.acceptEntry_register_behind (s := t.hold .idle) target v head behind)

/-- A held register write that finds the buffer empty takes effect at once (R41). -/
theorem State.acceptHeld_register_of_empty (empty : t.port.buffer = []) :
    t.acceptHeld = (t.withPort { held := .idle, buffer := [], answer := some ⟨.accepted, []⟩ }).deliver target v :=
  (State.acceptHeld_some held).trans (State.acceptEntry_register_of_empty (s := t.hold .idle) target v empty)

end

end

/-! ### The end of a drain -/

/-- No register entry is at the head of the buffer (R41). -/
theorem Port.headIsMemory_iff (p : Port) : p.headIsMemory ↔ ∀ r v l, p.buffer ≠ .register r v :: l := by
  unfold Port.headIsMemory
  rcases p.buffer with _ | ⟨_ | _, rest⟩ <;> simp

/-- The table of R37 and R173 for the words of a drained line, handed on in order. -/
def State.handDrain (s : State) (line : Nat) (reports : List WordReport) : State :=
  reports.foldl (State.handDrainWord line) s

theorem State.handDrain_accounted (s : State) (line : Nat) (reports : List WordReport) :
    Accounted s (s.handDrain line reports) := Accounted.foldl (State.handDrainWord_accounted line) reports s

/-- Accounting leaves the attributes of every line alone (R44). -/
theorem Accounted.attributesOfLine {s t : State} (h : Accounted s t) (line : Nat) :
    t.tables.attributesOfLine line = s.tables.attributesOfLine line := by
  rw [Tables.attributesOfLine, h.regions, h.defaults, Tables.attributesOfLine]

/-- Words that all decode GOOD, or were written without a decode, hand on nothing (R37). -/
theorem State.handDrain_good (s : State) (line : Nat) (reports : List WordReport)
    (good : ∀ r ∈ reports, ∀ d, r.decoded = some d → d.1 = .good) : s.handDrain line reports = s := by
  unfold State.handDrain
  induction reports with
  | nil => rfl
  | cons r rest ih =>
    have nothing : State.handDrainWord line s r = s := by
      unfold State.handDrainWord
      rcases decoded : r.decoded with _ | ⟨c, d⟩
      · rfl
      · obtain rfl : c = .good := good r (List.mem_cons_self ..) _ decoded
        rfl
    rw [List.foldl_cons, nothing]
    exact ih fun q inside => good q (List.mem_cons_of_mem r inside)

/-- The state in which the drained entry has left and the channel is free (R36). -/
def State.drained (s : State) (rest : List PostEntry) : State :=
  (s.withArbiter { s.arbiter with tenure := none }).withPort { s.port with buffer := rest }

section
variable {s : State} {line : Nat} {reports : List WordReport} {discarded : Bool} {head : PostEntry} {rest : List PostEntry}
  (live : s.resetAsserted = false) (tenure : s.arbiter.tenure = some ⟨.drain, line, reports, discarded⟩)
  (buffer : s.port.buffer = head :: rest)
include live tenure buffer

/-- DRAIN_END by its four parts (R36). -/
theorem exec_drainEnd : exec .drainEnd s
    = .next ((s.drained rest).handDrain line reports).deliverHeads.acceptHeld.conclude := by
  have ending : s.ending (· == .drain) = some ⟨.drain, line, reports, discarded⟩ :=
    State.ending_of_tenure live tenure rfl
  rw [exec, execDrainEnd, ending]
  simp only [State.endDrain, buffer, List.tail_cons]
  rfl

/-- With no register entry behind the drained one, only the held write is left to judge (R36). -/
theorem exec_drainEnd_noRegister (noRegister : ∀ r v l, rest ≠ .register r v :: l) :
    exec .drainEnd s = .next ((s.drained rest).handDrain line reports).acceptHeld.conclude := by
  have handed := (s.drained rest).handDrain_accounted line reports
  rw [exec_drainEnd live tenure buffer, State.deliverHeads_of_headIsMemory _ ?_]
  rw [handed.port]
  exact (Port.headIsMemory_iff _).2 noRegister

/-- With one legal SQ_TAIL behind the drained entry, it is taken before the held write is judged (R36, R41, R121). -/
theorem exec_drainEnd_sqTail {v : BitVec 32} {tail : List PostEntry} {r : Rings} (next : rest = .register .sqTail v :: tail)
    (noOther : ∀ r v l, tail ≠ .register r v :: l) (posts : s.engine.state.posts = true) (rings : s.engine.rings = some r)
    (below : (v.extractLsb' 0 16).toNat < 2 ^ r.sq.exponent) :
    exec .drainEnd s = .next (State.conclude (State.acceptHeld
      ((((s.drained rest).handDrain line reports).withEngine { s.engine with sqTail := v.extractLsb' 0 16 }).withPort
        { s.port with buffer := tail }))) := by
  have handed := (s.drained rest).handDrain_accounted line reports
  rw [exec_drainEnd live tenure buffer]
  generalize (s.drained rest).handDrain line reports = u at handed ⊢
  have port : u.port = { s.port with buffer := rest } := handed.port
  have engine : u.engine = s.engine := handed.engine
  have legal : (u.setBuffer tail).deliver .sqTail v
      = (u.withEngine { s.engine with sqTail := v.extractLsb' 0 16 }).withPort { s.port with buffer := tail } := by
    rw [toNat_extractLsb'_16] at below
    rw [← BitVec.setWidth_eq_extractLsb' (by decide), State.setBuffer,
      State.deliver_sqTail_legal (r := r) (by simpa [engine] using posts) (by simpa [engine] using rings) below, port]
    simp only [State.withPort_engine, engine]
    rfl
  have queue : u.port.buffer = .register .sqTail v :: tail := by rw [port, next]
  rw [State.deliverHeads_register u .sqTail v tail queue, legal, State.deliverHeads_of_headIsMemory _ ?_]
  exact (Port.headIsMemory_iff _).2 noOther

end

/-- Settles O21: the parts of R36 in their order, then what a delivered register and a held write do on their own. -/
theorem drainEndFreesTheHeadEntry : Obligations.DrainEndFreesTheHeadEntry := by
  refine ⟨fun s line reports discarded head rest live tenure buffer => ?_, fun t => ⟨t.deliverHeads_headIsMemory,
      t.deliverHeads_of_headIsMemory, t.deliverHeads_register⟩,
    fun t v => ⟨fun r => State.deliver_sqTail_legal, fun r => State.deliver_sqTail_illegal,
      State.deliver_sqTail_unchecked⟩,
    fun t v => ⟨fun reset => ?_, fun start noReset off inHost => ?_, fun start noReset off beyond => ?_,
      fun start noReset quiesced => ?_, fun quiesce noReset runs => ?_, fun noReset => State.deliver_ctrl_enables noReset⟩,
    fun t => ⟨State.acceptHeld_none, fun l m d held headed => ⟨State.acceptHeld_memory held headed,
      State.acceptHeld_protected held⟩, fun target v held headed => ⟨State.acceptHeld_register_behind held headed,
      State.acceptHeld_register_of_empty held⟩⟩⟩
  · intro freed u
    have table : u = freed.handDrain line reports := by
      refine congrArg (fun f => reports.foldl f freed) ?_
      funext t r
      exact (State.handDrainWord_eq line t r).symm
    have handed : Accounted freed u := table ▸ freed.handDrain_accounted line reports
    have port : u.port = { s.port with buffer := rest } := handed.port
    have protection (l : Nat) : (u.tables.attributesOfLine l).writeProtect = (s.tables.attributesOfLine l).writeProtect :=
      congrArg Attributes.writeProtect (handed.attributesOfLine l)
    refine ⟨handed, fun good => table.trans (freed.handDrain_good line reports good), ?_, fun noRegister => ?_,
      fun tail v next noOther r posts rings below => ?_⟩
    · rw [table]
      exact exec_drainEnd live tenure buffer
    · have headed : u.port.headIsMemory := (Port.headIsMemory_iff _).2 (port ▸ noRegister)
      have run : exec .drainEnd s = .next u.acceptHeld.conclude :=
        table ▸ exec_drainEnd_noRegister live tenure buffer noRegister
      refine ⟨fun free => ?_, fun l m d held => ⟨fun allowed => ?_, fun protects => ?_⟩, fun target v held behind => ?_⟩
      · rw [run, State.acceptHeld_none (by rwa [port])]
      · rw [run, State.acceptHeld_memory (by rwa [port]) headed ((protection l).trans allowed), port]
      · rw [run, State.acceptHeld_protected (by rwa [port]) ((protection l).trans protects), port]
      · rw [run, State.acceptHeld_register_behind (by rwa [port]) headed (by rwa [port]), port]
    · intro taken
      have headed : ({ s.port with buffer := tail } : Port).headIsMemory := (Port.headIsMemory_iff _).2 noOther
      have run := exec_drainEnd_sqTail live tenure buffer next noOther posts rings below
      rw [show (s.drained rest).handDrain line reports = u from table.symm] at run
      refine ⟨fun free => ?_, fun l m d held allowed => ?_⟩
      · rw [run, State.acceptHeld_none (t := taken.withPort { s.port with buffer := tail }) free]
      · rw [run, State.acceptHeld_memory (t := taken.withPort { s.port with buffer := tail }) held headed
          ((protection l).trans allowed)]
        rfl
  · exact (State.deliver_ctrl_engineReset reset).trans (State.engineReset_eq _)
  · exact (State.deliver_ctrl_start noReset start (.inl off)).trans (State.startAction_off off inHost)
  · exact (State.deliver_ctrl_start noReset start (.inl off)).trans (State.startAction_off_beyond off beyond)
  · exact (State.deliver_ctrl_start noReset start (.inr quiesced)).trans (State.startAction_quiesced quiesced)
  · exact (State.deliver_ctrl_quiesce noReset quiesce runs).trans (State.quiesceAction_running runs)

end Sys2Proof.Machine
end

section
/-!
The end of a fetch (R118, R123, R130). Settled here: O33.
-/

namespace Sys2Proof.Machine

theorem EngineState.issues_iff (st : EngineState) : st.issues = true ↔ st = .running ∨ st = .quiescing := by
  cases st <;> simp [EngineState.issues]

/-- Handing on the words of a tenure that decodes is accounting. -/
theorem handedOn_accounted (src : Source) (tag : Option Tag) (line : Nat) (reports : List WordReport) (s : State) :
    Accounted s (reports.foldl (handedOn src tag line) s) :=
  State.handWords_eq s src tag line reports ▸ s.handWords_accounted src tag line reports

section
variable {s : State} {line : Nat} {reports : List WordReport} {r : Rings}

/-- FETCH_END advances the fetch index (R118), hands on the detections, and takes the record by the engine state (R130). -/
theorem exec_fetchEnd (live : s.resetAsserted = false) (rings : s.engine.rings = some r)
    (tenure : s.arbiter.tenure = some ⟨.fetch, line, reports, false⟩) :
    let u := reports.foldl (handedOn .fetch none line) ((s.withArbiter { s.arbiter with tenure := none }).withEngine
      { s.engine with rings := some { r with fetch := (r.fetch + 1) % 2 ^ r.sq.exponent } })
    exec .fetchEnd s = .next (if u.engine.state.issues then
      if anyLost reports then u.halt .commandUnreadable else u.takeRecord (recordOfWords (recordWords reports))
      else u).conclude := by
  have advanced : s.freeChannel.advanceFetch = (s.withArbiter { s.arbiter with tenure := none }).withEngine
      { s.engine with rings := some { r with fetch := (r.fetch + 1) % 2 ^ r.sq.exponent } } := by
    show s.freeChannel.withEngine { s.engine with rings := s.engine.rings.map _ } = _
    rw [rings]
    rfl
  simp only [exec, execFetchEnd, State.endTenure, State.ending_of_tenure (f := (· == .fetch)) live tenure rfl,
    State.endFetch, advanced, State.handWords_eq]
  rfl

end

/-- Settles O33: the engine state decides what becomes of the record; no hand-on changes it. -/
theorem fetchEndTakesTheRecord : Obligations.FetchEndTakesTheRecord := by
  intro s line reports r live rings tenure next u lost
  have handed : Accounted next u := handedOn_accounted .fetch none line reports next
  have state : u.engine.state = s.engine.state := by rw [handed.engine]; rfl
  have run := exec_fetchEnd live rings tenure
  refine ⟨handed, fun issues => ⟨fun whole => ?_, fun damaged => ?_⟩, fun halted => ?_, fun served => ?_⟩
  · have readable : ¬ anyLost reports = true := fun some => whole ((anyLost_iff reports).1 some)
    exact run.trans (by rw [if_pos (state ▸ (EngineState.issues_iff _).2 issues), if_neg readable]; rfl)
  · exact run.trans (by
      rw [if_pos (state ▸ (EngineState.issues_iff _).2 issues), if_pos ((anyLost_iff reports).2 damaged)])
  · have idle : ¬ u.engine.state.issues = true := by rw [state, halted]; decide
    exact run.trans (by rw [if_neg idle])
  · exact handedOn_admission .fetch none line reports next served

end Sys2Proof.Machine
end

section
/-!
How a migration starts (R67 to R74): offers commute with the other groups, the spare that is chosen, and what one request
that joins the Retire Queue comes to. Settled here: O52.
-/

namespace Sys2Proof.Machine

/-! ### An offer reads the engine and the news alone -/

section
variable (s : State) (e : EventRecord)

/-- Whatever leaves the engine and the news alone may come before an offer or behind it. -/
theorem State.offer_comm {f : State → State} (engine : (f s).engine = s.engine) (news : (f s).news = s.news)
    (stands : ∀ n, (f s).withNews n = f (s.withNews n)) : (f s).offer e = f (s.offer e) := by
  unfold State.offer
  rw [engine, news, stands]
  exact (apply_ite f ..).symm

theorem State.withTables_offer (x : Tables) : (s.withTables x).offer e = (s.offer e).withTables x :=
  s.offer_comm e (f := (State.withTables · x)) rfl rfl fun _ => rfl

theorem State.withAdmission_offer (x : Admission) : (s.withAdmission x).offer e = (s.offer e).withAdmission x :=
  s.offer_comm e (f := (State.withAdmission · x)) rfl rfl fun _ => rfl

theorem State.withArbiter_offer (x : Arbiter) : (s.withArbiter x).offer e = (s.offer e).withArbiter x :=
  s.offer_comm e (f := (State.withArbiter · x)) rfl rfl fun _ => rfl

theorem State.completeOrigin_offer (o : Origin) (st : Status) (l c u p : Nat) (result : BitVec 28) :
    (s.offer e).completeOrigin o st l c u p result = (s.completeOrigin o st l c u p result).offer e := by
  cases o with
  | auto => rfl
  | command tag => simp only [State.completeOrigin, State.complete, State.withAdmission_offer, State.offer_admission]

end

@[simp] theorem State.completeOrigin_tables (s : State) (o : Origin) (st : Status) (l c u p : Nat) (result : BitVec 28) :
    (s.completeOrigin o st l c u p result).tables = s.tables := by cases o <;> rfl

/-! ### Spares and frames -/

section
variable {t : Tables}

/-- The lowest FREE spare is chosen (R49). -/
theorem Tables.lowestFreeSpare_eq_some {k : Nat} (free : t.spares[k]? = some .free)
    (lowest : ∀ j < k, t.spares[j]? ≠ some .free) : t.lowestFreeSpare = some k := by
  obtain ⟨inside, here⟩ := List.getElem?_eq_some_iff.1 free
  refine List.findIdx?_eq_some_iff_getElem.2 ⟨inside, by simp [here], fun j below => ?_⟩
  have other := lowest j below
  rw [List.getElem?_eq_getElem (Nat.lt_trans below inside)] at other
  simpa using other

/-- Where no spare is FREE none is chosen (R73). -/
theorem Tables.lowestFreeSpare_eq_none (taken : ∀ k : Nat, t.spares[k]? ≠ some .free) : t.lowestFreeSpare = none := by
  refine List.findIdx?_eq_none_iff.2 fun st inside => ?_
  obtain ⟨k, place⟩ := List.mem_iff_getElem?.1 inside
  have other := taken k
  rw [place] at other
  simpa using other

/-- A re-retire keeps the current spare of the frame's entry (R74 step 2). -/
theorem Tables.currentSpare_eq (frame : Nat) : t.currentSpare frame = t.currentOf frame := by
  unfold Tables.currentSpare Tables.currentOf
  rcases t.entryOf frame with _ | ⟨f, c | ⟨c, k, m⟩⟩ <;> rfl

theorem Tables.retiring_iff (frame : Nat) :
    t.retiring frame = true ↔ t.migratingFrame = some frame ∨ ∃ r ∈ t.retireQueue, r.frame = frame := by
  simp [Tables.retiring, Tables.queued]

end

/-! ### The start of a migration (R72 to R74) -/

/-- The tables when the migration of a request starts on spare k (R74). -/
def Tables.started (t : Tables) (r : RetireRequest) (k : Nat) : Tables :=
  { (t.putEntry r.frame (.migrating (t.currentOf r.frame) k 0)).setRetire r.frame .migrating with
    spares := t.spares.set k .target
    migration := some ⟨r.frame, r.origin, r.cause, k, t.currentOf r.frame, 0, 0, 0, 0, .waiting⟩ }

section
variable (t : Tables) (r : RetireRequest) (k : Nat)

theorem Tables.started_entryOf :
    (t.started r k).entryOf r.frame = some ⟨r.frame, .migrating (t.currentOf r.frame) k 0⟩ := t.entryOf_putEntry ..

theorem Tables.started_entryOf_other {f : Nat} (other : f ≠ r.frame) : (t.started r k).entryOf f = t.entryOf f :=
  t.entryOf_putEntry_other _ other

end

/-- The start of a migration, its event offered and its tables changed (R74). -/
theorem State.beginMigration_eq (s : State) (r : RetireRequest) (k : Nat) : s.beginMigration r k
    = (s.offer (retireEvent .retireStarted r.origin r.frame (some k) (causeBit r.origin r.cause) 0)).withTables
      (s.tables.started r k) := by
  simp only [State.beginMigration, State.withTables_offer, State.withTables_withTables, State.withTables_tables,
    Tables.currentSpare_eq]
  rfl

/-- A refused start, its completion, its event and its table changed (R73). -/
theorem State.refuseStart_state (s : State) (r : RetireRequest) : s.refuseStart r
    = ((s.completeOrigin r.origin .noSpare 0 0 0 0 0#28).offer
        (retireEvent .retireRefused r.origin r.frame none false 0)).withTables (s.tables.setRetire r.frame .refused) := by
  simp only [State.refuseStart, State.completeOrigin_offer, State.offer_tables, State.completeOrigin_tables]

section
variable {s : State}

/-- No request waits, so nothing starts (R72). -/
theorem State.startMigrations_empty (empty : s.tables.retireQueue = []) : s.startMigrations = s := by
  rw [State.startMigrations, empty, startFrom]

/-- The Migration Unit copies, so nothing starts (R72). -/
theorem State.startMigrations_copying (copying : s.tables.migration.isSome = true) : s.startMigrations = s := by
  unfold State.startMigrations
  cases s.tables.retireQueue with
  | nil => rfl
  | cons r rest =>
    refine if_neg fun idle => ?_
    rw [Option.isNone_iff_eq_none.1 idle.1] at copying
    cases copying

section
variable (idle : s.tables.migration = none) (retires : s.engine.state.retires = true)
include idle retires

/-- The head request is taken on the lowest FREE spare (R72, R74). -/
theorem State.startMigrations_head {r : RetireRequest} {rest : List RetireRequest} {k : Nat}
    (queue : s.tables.retireQueue = r :: rest) (spare : s.tables.lowestFreeSpare = some k) : s.startMigrations
      = (s.offer (retireEvent .retireStarted r.origin r.frame (some k) (causeBit r.origin r.cause) 0)).withTables
        (({ s.tables with retireQueue := rest } : Tables).started r k) := by
  have popped : ({ s.tables with retireQueue := rest } : Tables).lowestFreeSpare = some k := spare
  rw [State.startMigrations, queue, startFrom, if_pos ⟨by rw [idle]; rfl, retires⟩]
  simp only [State.withTables_tables, popped, State.beginMigration_eq, State.withTables_offer, State.withTables_withTables]

/-- A lone request is refused where no spare is FREE (R73). -/
theorem State.startMigrations_refused {r : RetireRequest} (queue : s.tables.retireQueue = [r])
    (noSpare : s.tables.lowestFreeSpare = none) :
    s.startMigrations = (s.withTables { s.tables with retireQueue := [] }).refuseStart r := by
  have popped : ({ s.tables with retireQueue := [] } : Tables).lowestFreeSpare = none := noSpare
  rw [State.startMigrations, queue, startFrom, if_pos ⟨by rw [idle]; rfl, retires⟩]
  simp only [State.withTables_tables, popped, startFrom]

end

/-! ### A request joins the Retire Queue (R67 to R69) -/

variable {r : RetireRequest}

/-- Behind a migration the request waits, QUEUED (R69, R72). -/
theorem State.joinQueue_waits (copying : s.tables.migration.isSome = true) :
    s.joinQueue r = s.withTables
      ({ s.tables with retireQueue := s.tables.retireQueue ++ [r] }.setRetire r.frame .queued) :=
  State.startMigrations_copying copying

/-- The tables with one request in the Retire Queue, QUEUED (R69). -/
def Tables.lone (t : Tables) (r : RetireRequest) : Tables :=
  ({ t with retireQueue := [r] } : Tables).setRetire r.frame .queued

section
variable (idle : s.tables.migration = none) (empty : s.tables.retireQueue = [])
include empty

theorem State.joinQueue_lone : s.joinQueue r = (s.withTables (s.tables.lone r)).startMigrations := by
  rw [State.joinQueue, empty]
  rfl

/-- A lone request that is taken at once leaves the queue empty, and its suspect as its start has it (R69). -/
theorem Tables.lone_taken (st : RetireState) :
    ({ s.tables.lone r with retireQueue := [] } : Tables).setRetire r.frame st = s.tables.setRetire r.frame st := by
  calc _ = { s.tables with
        retireQueue := [], suspects := ((s.tables.setRetire r.frame .queued).setRetire r.frame st).suspects } := rfl
    _ = s.tables.setRetire r.frame st := by
      rw [Tables.setRetire_setRetire, ← empty]
      rfl

variable (retires : s.engine.state.retires = true)
include idle retires

/-- With the unit IDLE and a FREE spare the migration starts at once (R72, R74). -/
theorem State.joinQueue_starts {k : Nat} (spare : s.tables.lowestFreeSpare = some k) : s.joinQueue r
    = (s.offer (retireEvent .retireStarted r.origin r.frame (some k) (causeBit r.origin r.cause) 0)).withTables
      (s.tables.started r k) := by
  have started := congrArg (fun u : Tables => { s.tables.started r k with
    retireQueue := u.retireQueue, suspects := u.suspects }) (Tables.lone_taken (s := s) (r := r) empty .migrating)
  rw [State.joinQueue_lone empty, State.startMigrations_head (s := s.withTables (s.tables.lone r)) idle retires rfl spare,
    State.withTables_offer, State.withTables_withTables]
  exact congrArg (State.withTables _) started

/-- With the unit IDLE and no FREE spare the request is refused at once (R72, R73). -/
theorem State.joinQueue_refused (noSpare : s.tables.lowestFreeSpare = none) :
    s.joinQueue r = ((s.completeOrigin r.origin .noSpare 0 0 0 0 0#28).offer
      (retireEvent .retireRefused r.origin r.frame none false 0)).withTables (s.tables.setRetire r.frame .refused) := by
  rw [State.joinQueue_lone empty,
    State.startMigrations_refused (s := s.withTables (s.tables.lone r)) idle retires rfl noSpare,
    State.refuseStart_state, State.withTables_withTables, ← Tables.lone_taken (s := s) (r := r) empty .refused]
  cases r.origin with
  | auto => rw [State.completeOrigin, State.completeOrigin, State.withTables_offer]; rfl
  | command tag =>
    simp only [State.completeOrigin, State.complete, State.withTables_offer, State.withAdmission_offer]
    rfl

end

end

/-! ### RETIRE (R67, R158) -/

/-- Where commands issue, migrations start (R70, R135). -/
theorem State.retires_of_admits {s : State} (admits : s.admits = true) : s.engine.state.retires = true := by
  have issues : s.engine.state.issues = true := by
    simp only [State.admits, Bool.and_eq_true] at admits
    exact admits.1.1.1.2
  revert issues
  cases s.engine.state <;> decide

/-- Settles O52: the command issues at once, and its request is refused, waits, or is taken by the unit. -/
theorem retireOutcomes : Obligations.RetireOutcomes := by
  intro tag frame s admits nothingAhead inHost fresh laws f busy done
  have retires := State.retires_of_admits admits
  have run : exec (.retire tag frame) s = .next (s.issueRetire tag f).conclude :=
    s.presentRecord_issues tag (.retire f) admits nothingAhead rfl (decide_eq_true inHost) fresh rfl nofun
  have joins (free : ¬busy) (room : s.tables.retireQueue.length < 8) :
      s.issueRetire tag f = s.joinQueue ⟨f, .command tag, .command⟩ := by
    rw [State.issueRetire, if_neg (mt (Tables.retiring_iff f).1 free), if_neg (Nat.not_le_of_lt room)]
  have alone (idle : s.tables.migration = none) (free : ¬busy) :
      s.issueRetire tag f = s.joinQueue ⟨f, .command tag, .command⟩ :=
    joins free (by rw [laws.queueServed idle]; decide)
  refine ⟨fun retiring => ?_, fun free full => ?_, fun free room ⟨m, copying⟩ => ?_, fun free idle taken => ?_,
    fun free idle k spare lowest => ?_⟩
  · rw [run, State.issueRetire, if_pos ((Tables.retiring_iff f).2 retiring)]
    rfl
  · rw [run, State.issueRetire, if_neg (mt (Tables.retiring_iff f).1 free), if_pos full]
    rfl
  · rw [run, joins free room, State.joinQueue_waits (by rw [copying]; rfl)]
    rfl
  · rw [run, alone idle free,
      State.joinQueue_refused idle (laws.queueServed idle) retires (Tables.lowestFreeSpare_eq_none taken)]
    rfl
  · rw [run, alone idle free,
      State.joinQueue_starts idle (laws.queueServed idle) retires (Tables.lowestFreeSpare_eq_some spare lowest)]
    rfl

end Sys2Proof.Machine
end

section
/-!
A detection and the offer it makes (R68, R91 to R96): the entry that the Suspect Table holds afterwards, and what the offer
of its frame comes to. Settled here: O42.
-/

namespace Sys2Proof.Machine

/-! ### The frame's entry in the Suspect Table (R89 to R92) -/

section
variable {t : Tables} {frame : Nat}

/-- The first place with an entry of the frame holds the one found. -/
theorem Tables.suspectOf_first {i : Nat} {e : SuspectEntry} (here : t.suspects[i]? = some (some e)) (mine : e.frame = frame)
    (before : ∀ j < i, ∀ y, t.suspects[j]? = some (some y) → y.frame ≠ frame) : t.suspectOf frame = some e := by
  obtain ⟨inside, place⟩ := List.getElem?_eq_some_iff.1 here
  have first : t.suspects.find? (·.any (·.frame == frame)) = some (some e) := by
    refine List.find?_eq_some_iff_getElem.2 ⟨by simp [mine], i, inside, place, fun j below => ?_⟩
    cases earlier : t.suspects[j] with
    | none => rfl
    | some y =>
      have other := before j below y (by rw [List.getElem?_eq_getElem (Nat.lt_trans below inside), earlier])
      simpa using other
  rw [Tables.suspectOf, first]
  rfl

/-- The place found for a frame is the first with an entry of it. -/
theorem Tables.suspectPlace_some {i : Nat} (place : t.suspectPlace frame = some i) :
    ∃ e, t.suspects[i]? = some (some e) ∧ e.frame = frame
      ∧ ∀ j < i, ∀ y, t.suspects[j]? = some (some y) → y.frame ≠ frame := by
  obtain ⟨inside, mine, before⟩ := List.findIdx?_eq_some_iff_getElem.1 place
  cases here : t.suspects[i] with
  | none => simp [here] at mine
  | some e =>
    refine ⟨e, by rw [List.getElem?_eq_getElem inside, here], by simpa [here] using mine, fun j below y earlier => ?_⟩
    obtain ⟨_, earlier⟩ := List.getElem?_eq_some_iff.1 earlier
    simpa [earlier] using before j below

/-- A frame without a place has no entry. -/
theorem Tables.suspectPlace_none (place : t.suspectPlace frame = none) {i : Nat} {y : SuspectEntry}
    (here : t.suspects[i]? = some (some y)) : y.frame ≠ frame := by
  simpa using List.findIdx?_eq_none_iff.1 place _ (List.mem_of_getElem? here)

theorem Tables.suspectOf_none (absent : ∀ (i : Nat) (y : SuspectEntry), t.suspects[i]? = some (some y) → y.frame ≠ frame) :
    t.suspectOf frame = none := by
  have nowhere : t.suspects.find? (·.any (·.frame == frame)) = none := by
    refine List.find?_eq_none.2 fun p inside => ?_
    obtain ⟨i, here⟩ := List.mem_iff_getElem?.1 inside
    cases p with
    | none => simp
    | some y => simpa using absent i y here
  rw [Tables.suspectOf, nowhere]
  rfl

end

/-- The entry a detection leaves: the frame's own, counted up, or a new one (R91, R92). -/
def Tables.detected (t : Tables) (line word : Nat) (uncorrectable : Bool) : SuspectEntry :=
  ((t.suspectOf (line / 64)).map (·.update line word uncorrectable)).getD (t.freshEntry line word uncorrectable)

section
variable (t : Tables)

theorem Tables.enter_eq (line word : Nat) (uncorrectable : Bool) : ∃ suspects pointer,
    t.enter line word uncorrectable = { t with suspects := suspects, evictionPointer := pointer } := by
  unfold Tables.enter
  split <;> exact ⟨_, _, rfl⟩

theorem evictionPlace_lt (places : List (Option SuspectEntry)) (n : Nat) {p : Nat} (inTable : p < 32) :
    evictionPlace places n p < 32 := by
  induction n generalizing p with
  | zero => exact inTable
  | succ n ih =>
    unfold evictionPlace
    split
    · exact ih (nextPlace_lt p)
    · exact inTable

/-- A new entry takes a place of the table (R92, R93). -/
theorem Tables.allocation_lt (size : t.suspects.length = 32) (pointer : t.evictionPointer < 32) : t.allocation.1 < 32 := by
  unfold Tables.allocation
  cases place : firstFree t.suspects with
  | some i =>
    obtain ⟨inside, -⟩ := List.findIdx?_eq_some_iff_getElem.1 place
    exact size ▸ inside
  | none => exact evictionPlace_lt _ _ pointer

/-- After a detection the frame's entry is the one it leaves (R91, R92). -/
theorem Tables.enter_suspectOf (line word : Nat) (uncorrectable : Bool) (size : t.suspects.length = 32)
    (pointer : t.evictionPointer < 32) :
    (t.enter line word uncorrectable).suspectOf (line / 64) = some (t.detected line word uncorrectable) := by
  unfold Tables.enter Tables.detected
  cases place : t.suspectPlace (line / 64) with
  | some i =>
    obtain ⟨e, here, mine, before⟩ := Tables.suspectPlace_some place
    rw [Tables.suspectOf_first here mine before]
    refine Tables.suspectOf_first (i := i) (by simp [here]) mine fun j below y earlier => before j below y ?_
    simpa [List.getElem?_modify, Nat.ne_of_gt below] using earlier
  | none =>
    have absent := fun i y => Tables.suspectPlace_none (i := i) (y := y) place
    rw [Tables.suspectOf_none absent]
    refine Tables.suspectOf_first (i := t.allocation.1) (by simp [size, t.allocation_lt size pointer]) rfl
      fun j below y earlier => absent j y ?_
    rwa [List.getElem?_set_ne (Nat.ne_of_gt below)] at earlier

/-- The entry found for a frame is that frame's. -/
theorem Tables.suspectOf_frame {frame : Nat} {e : SuspectEntry} (entry : t.suspectOf frame = some e) : e.frame = frame := by
  have mine := List.find?_some (Option.join_eq_some_iff.1 entry)
  simpa using mine

/-- A retire state given to a frame is taken by its entry alone (R69). -/
theorem Tables.suspectOf_setRetire (f frame : Nat) (st : RetireState) : (t.setRetire frame st).suspectOf f
    = (t.suspectOf f).map fun e => if e.frame = frame then { e with retire := st } else e := by
  have same : ((fun p : Option SuspectEntry => p.any fun e => e.frame == f) ∘
      Option.map fun e : SuspectEntry => if e.frame = frame then { e with retire := st } else e)
        = fun p => p.any fun e => e.frame == f := by
    funext p
    rcases p with _ | e
    · rfl
    · by_cases mine : e.frame = frame <;> simp [mine]
  rw [Tables.suspectOf, Tables.setRetire, List.find?_map, same, Tables.suspectOf]
  rcases t.suspects.find? _ with _ | _ | _ <;> rfl

end

/-! ### The offer (R68, R95) -/

section
variable {s : State} {frame : Nat} {e : SuspectEntry}

/-- An offer of a frame that is migrating or queued does nothing (R68). -/
theorem State.offerAuto_retiring (cause : Cause) (retiring : s.tables.retiring frame = true) :
    s.offerAuto frame cause = s := if_pos retiring

variable (entry : s.tables.suspectOf frame = some e)
include entry

/-- Where one of R95's conditions fails no offer is made. -/
theorem State.considerOffer_stands (fails : s.engine.state.retires = false
    ∨ (s.tables.attributesOfFrame frame).autoRetire = false ∨ e.retire ≠ .none
    ∨ (e.corrected < s.engine.threshold ∧ e.uncorrectable = 0)) : s.considerOffer frame = s := by
  rw [State.considerOffer, entry]
  refine if_neg ?_
  rintro ⟨retires, auto, state, counts⟩
  rcases fails with stopped | manual | retired | ⟨few, noLost⟩
  · rw [retires] at stopped; cases stopped
  · rw [auto] at manual; cases manual
  · exact retired state
  · omega

/-- Where the frame is migrating or queued a detection starts nothing (R68). -/
theorem State.considerOffer_retiring (retiring : s.tables.retiring frame = true) : s.considerOffer frame = s := by
  simp only [State.considerOffer, entry, State.offerAuto_retiring _ retiring, ite_self]

section
variable (retires : s.engine.state.retires = true) (auto : (s.tables.attributesOfFrame frame).autoRetire = true)
  (state : e.retire = .none) (counts : s.engine.threshold ≤ e.corrected ∨ 1 ≤ e.uncorrectable)
  (free : ¬ s.tables.retiring frame = true)
include retires auto state counts free

/-- Where R95's four conditions hold and the queue has room, the frame's request joins it (R68). -/
theorem State.considerOffer_joins (room : s.tables.retireQueue.length < 8) : s.considerOffer frame
    = s.joinQueue ⟨frame, .auto, if 1 ≤ e.uncorrectable then .uncorrectable else .threshold⟩ := by
  simp only [State.considerOffer, entry]
  rw [if_pos ⟨retires, auto, state, counts⟩, State.offerAuto, if_neg free, if_neg (Nat.not_le_of_lt room)]

/-- Where R95's four conditions hold and the queue is full, the offer is refused QUEUE_FULL (R68). -/
theorem State.considerOffer_full (full : 8 ≤ s.tables.retireQueue.length) :
    s.considerOffer frame = s.offer (retireEvent .retireRefused .auto frame none true 0) := by
  simp only [State.considerOffer, entry]
  rw [if_pos ⟨retires, auto, state, counts⟩, State.offerAuto, if_neg free, if_pos full]

end

end

/-! ### A detection and its offer -/

section
variable (t : Tables) (line word : Nat) (uncorrectable : Bool)

theorem Tables.detected_corrected : (t.detected line word uncorrectable).corrected
    = if uncorrectable then ((t.suspectOf (line / 64)).map (·.corrected)).getD 0
      else min 255 (((t.suspectOf (line / 64)).map (·.corrected)).getD 0 + 1) := by
  unfold Tables.detected
  rcases t.suspectOf (line / 64) with _ | e <;> cases uncorrectable <;> rfl

theorem Tables.detected_uncorrectable : (t.detected line word uncorrectable).uncorrectable
    = if uncorrectable then min 255 (((t.suspectOf (line / 64)).map (·.uncorrectable)).getD 0 + 1)
      else ((t.suspectOf (line / 64)).map (·.uncorrectable)).getD 0 := by
  unfold Tables.detected
  rcases t.suspectOf (line / 64) with _ | e <;> cases uncorrectable <;> rfl

/-- The retire state stands, or starts NONE where the frame is neither migrating nor queued (R91, R92). -/
theorem Tables.detected_retire (free : ¬ t.retiring (line / 64) = true) : (t.detected line word uncorrectable).retire
    = ((t.suspectOf (line / 64)).map (·.retire)).getD .none := by
  unfold Tables.detected
  rcases t.suspectOf (line / 64) with _ | e
  · have neither : t.migratingFrame ≠ some (line / 64) ∧ ¬ t.queued (line / 64) = true := by
      simpa [Tables.retiring] using free
    show t.freshRetire (line / 64) = .none
    rw [Tables.freshRetire, if_neg neither.1, if_neg neither.2]
  · rfl

end

/-- Settles O42: the entry a detection leaves decides whether its frame is offered, and the queue and the pool what comes of
the offer. -/
theorem lostWordStartsRetirement : Obligations.LostWordStartsRetirement := by
  refine ⟨fun e => by cases e <;> decide, fun s line word corrected lost uncorrectable size pointer => ?_⟩
  intro frame retire retiring corrected_eq lost_eq u cause old
  show (_ → _) ∧ (_ → _)
  have entered := s.tables.enter_suspectOf line word uncorrectable size pointer
  have corrected' : (s.tables.detected line word uncorrectable).corrected = corrected :=
    (s.tables.detected_corrected line word uncorrectable).trans corrected_eq.symm
  have lost' : (s.tables.detected line word uncorrectable).uncorrectable = lost :=
    (s.tables.detected_uncorrectable line word uncorrectable).trans lost_eq.symm
  have retire' (free : ¬retiring) : (s.tables.detected line word uncorrectable).retire = retire :=
    s.tables.detected_retire line word uncorrectable (mt (Tables.retiring_iff frame).1 free)
  generalize s.tables.detected line word uncorrectable = e at entered corrected' lost' retire'
  obtain ⟨suspects, place, enters⟩ := s.tables.enter_eq line word uncorrectable
  rw [enters] at entered
  have considered : u = (s.withTables { s.tables with
      suspects := suspects, evictionPointer := place }).considerOffer frame :=
    congrArg (fun t => (s.withTables t).considerOffer frame) enters
  clear_value u
  subst considered
  let d := s.withTables { s.tables with suspects := suspects, evictionPointer := place }
  have entry : d.tables.suspectOf frame = some e := entered
  have setRetire (st : RetireState) : ((d.tables.setRetire frame st).suspectOf frame).map (·.retire) = some st := by
    rw [Tables.suspectOf_setRetire, entry, Option.map_some, if_pos (d.tables.suspectOf_frame entry)]
    rfl
  refine ⟨fun retires auto state free counts => ?_, fun fails => ?_⟩
  · have free' : ¬ d.tables.retiring frame = true := mt (Tables.retiring_iff frame).1 free
    have joins (room : s.tables.retireQueue.length < 8) : d.considerOffer frame = d.joinQueue ⟨frame, .auto, cause⟩ := by
      rw [State.considerOffer_joins entry retires auto ((retire' free).trans state) (by rwa [corrected', lost']) free' room,
        lost']
    refine ⟨fun t idle empty spare lowest => ?_, fun idle empty taken => ?_, fun copying room => ?_, fun full => ?_⟩
    · have run := (joins (by rw [empty]; decide)).trans (State.joinQueue_starts (s := d) idle empty retires
        (Tables.lowestFreeSpare_eq_some spare lowest))
      show _ ∧ _
      rw [run]
      exact ⟨rfl, d.tables.started_entryOf .., fun f other => d.tables.started_entryOf_other _ t other, rfl, empty,
        setRetire .migrating, State.offer_news_congr _ rfl rfl, State.offer_admission ..⟩
    · have run := (joins (by rw [empty]; decide)).trans (State.joinQueue_refused (s := d) idle empty retires
        (Tables.lowestFreeSpare_eq_none taken))
      rw [run]
      exact ⟨⟨rfl, rfl, rfl, State.offer_admission ..⟩, empty, setRetire .refused, State.offer_news_congr _ rfl rfl⟩
    · rw [(joins room).trans (State.joinQueue_waits copying)]
      exact ⟨⟨rfl, rfl, rfl, rfl⟩, rfl, setRetire .queued, rfl⟩
    · have run := (State.considerOffer_full entry retires auto ((retire' free).trans state) (by rwa [corrected', lost'])
        free' full).trans (State.withTables_offer ..)
      rw [run]
      exact ⟨⟨rfl, rfl, rfl, State.offer_admission ..⟩, rfl,
        (congrArg (Option.map (·.retire)) entry).trans (congrArg some ((retire' free).trans state)), rfl⟩
  · have nothing : d.considerOffer frame = d := by
      by_cases free : retiring
      · exact State.considerOffer_retiring entry ((Tables.retiring_iff frame).2 free)
      · refine State.considerOffer_stands entry ?_
        rw [corrected', lost', retire' free]
        exact fails.imp_right (Or.imp_right (Or.imp_right fun h => h.resolve_left free))
    rw [nothing]
    exact ⟨⟨rfl, rfl, rfl, rfl⟩, rfl, rfl⟩

end Sys2Proof.Machine
end

section
/-!
The end of a Copy Step (R75 to R80, R88): its reports are counted and handed on, then the cursor advances or the frame is
cut over and the next request starts. Settled here: O39 and O40.
-/

namespace Sys2Proof.Machine

/-! ### The detections of a Copy Step (R77) -/

/-- The detections of a Copy Step's source, handed on in order. -/
def State.handCopy (s : State) (tag : Option Tag) (line : Nat) (reports : List WordReport) : State :=
  reports.foldl (State.handCopyWord tag line) s

section
variable (s : State) (tag : Option Tag) (line : Nat) (reports : List WordReport)

theorem State.handCopy_accounted : Accounted s (s.handCopy tag line reports) :=
  Accounted.foldl (State.handCopyWord_accounted tag line) reports s

@[simp] theorem State.handCopy_tables : (s.handCopy tag line reports).tables = s.tables :=
  (State.handCopyWords_tables tag line reports s).1

@[simp] theorem State.handCopy_admission : (s.handCopy tag line reports).admission = s.admission :=
  (State.handCopyWords_tables tag line reports s).2

/-- Whatever leaves the engine and the news alone may come before the hand-on or behind it. -/
theorem State.handCopy_comm {f : State → State} (engine : ∀ t, (f t).engine = t.engine) (news : ∀ t, (f t).news = t.news)
    (stands : ∀ t n, (f t).withNews n = f (t.withNews n)) :
    (f s).handCopy tag line reports = f (s.handCopy tag line reports) := by
  have presented (t : State) (e : EventRecord) (k : CaptureKind) :
      ((f t).offer e).present k .migration e.line e.word = f ((t.offer e).present k .migration e.line e.word) := by
    rw [t.offer_comm e (engine t) (news t) (stands t), State.present, news, stands, ← State.present]
  have one (t : State) (r : WordReport) : State.handCopyWord tag line (f t) r = f (State.handCopyWord tag line t r) := by
    unfold State.handCopyWord
    rcases r.decoded with _ | ⟨_ | b | _ | _, d⟩
    · rfl
    · rfl
    · exact presented t (detectionEvent .corrected .migration tag line r.index b.val) (.corrected b)
    · exact presented t (detectionEvent .uncorrectable .migration tag line r.index 0) .uncorrectable
    · rfl
  unfold State.handCopy
  induction reports generalizing s with
  | nil => rfl
  | cons r rest ih => rw [List.foldl_cons, one, ih, List.foldl_cons]

theorem State.withTables_handCopy (x : Tables) :
    (s.withTables x).handCopy tag line reports = (s.handCopy tag line reports).withTables x :=
  s.handCopy_comm tag line reports (f := (State.withTables · x)) (fun _ => rfl) (fun _ => rfl) fun _ _ => rfl

theorem State.withArbiter_handCopy (x : Arbiter) :
    (s.withArbiter x).handCopy tag line reports = (s.handCopy tag line reports).withArbiter x :=
  s.handCopy_comm tag line reports (f := (State.withArbiter · x)) (fun _ => rfl) (fun _ => rfl) fun _ _ => rfl

end

/-! ### The record's counts (R76) -/

/-- The record after the reports of a Copy Step, count by count. -/
theorem MigrationRecord.count_eq (m : MigrationRecord) (reports : List WordReport) : m.count reports = { m with
    corrected := m.corrected + (reports.filter fun r : WordReport => r.decoded.any fun d => match d.1 with
      | .corrected _ => true
      | _ => false).length
    uncorrectable := m.uncorrectable
      + (reports.filter fun r : WordReport => r.decoded.any fun d => d.1 == .uncorrectable).length
    poisonedWords := m.poisonedWords + (reports.filter fun r : WordReport => r.written == .poison).length
    poisonedLines := m.poisonedLines + (if reports.any (·.written == .poison) then 1 else 0) } := by
  have corrected (r : WordReport) : r.isCorrected = r.decoded.any fun d => match d.1 with
      | .corrected _ => true
      | _ => false := by
    unfold WordReport.isCorrected
    rcases r.decoded with _ | ⟨_ | _ | _ | _, d⟩ <;> rfl
  have uncorrectable (r : WordReport) : r.isUncorrectable = r.decoded.any fun d => d.1 == .uncorrectable := by
    unfold WordReport.isUncorrectable
    rcases r.decoded with _ | ⟨_ | _ | _ | _, d⟩ <;> rfl
  simp only [MigrationRecord.count, countReports, corrected, uncorrectable]

/-! ### The end of a Copy Step (R76) -/

section
variable {s : State} {m : MigrationRecord} {line cursor : Nat} {reports : List WordReport}

/-- Below line 63 the cursor advances and the next Copy Step waits, the detections handed on (R76, R77). -/
theorem State.endCopyStep_advances (entry : s.tables.entryOf m.frame = some ⟨m.frame, .migrating m.old m.target cursor⟩)
    (below : cursor < 63) : s.endCopyStep m line reports = (s.handCopy m.origin.tag? line reports).withTables
      { s.tables.putEntry m.frame (.migrating m.old m.target (cursor + 1)) with
        migration := some { m.count reports with step := .waiting } } := by
  have here : s.tables.cursorOf m.frame = cursor := Tables.cursorOf_migrating entry
  have counted := s.withTables_handCopy m.origin.tag? line reports { s.tables with migration := some (m.count reports) }
  have cursor_eq : ({ s.tables with migration := some (m.count reports) } : Tables).cursorOf (m.count reports).frame
      = cursor := here
  unfold State.handCopy at counted
  simp only [State.endCopyStep]
  rw [show (m.count reports).origin.tag? = m.origin.tag? from rfl, counted, State.withTables_tables, cursor_eq,
    if_pos below, State.advanceCursor, State.withTables_tables, cursor_eq]
  rfl

/-- COPY_STEP_END counts and hands on the reports, then advances or cuts over (R76). -/
theorem exec_copyStepEnd (live : s.resetAsserted = false)
    (tenure : s.arbiter.tenure = some ⟨.copyStep, line, reports, false⟩) (copying : s.tables.migration = some m) :
    exec .copyStepEnd s = .next (s.freeChannel.endCopyStep m line reports).conclude := by
  have free : s.freeChannel.tables.migration = some m := copying
  simp only [exec, execCopyStepEnd, State.endTenure, State.ending_of_tenure (f := (· == .copyStep)) live tenure rfl,
    State.takeCopyStep, free]
  rfl

end

/-- R77's table is the hand-on of a Copy Step's words. -/
theorem State.handCopy_table (s : State) (tag : Option Tag) (line : Nat) (reports : List WordReport) :
    s.handCopy tag line reports = reports.foldl (fun t r => match r.decoded with
      | some (.corrected b, _) => t.handOn
          { kind := .corrected, source := .migration, tag, line, word := r.index, bit := b.val } (.corrected b) none
      | some (.uncorrectable, _) => t.handOn
          { kind := .uncorrectable, source := .migration, tag, line, word := r.index } .uncorrectable none
      | some (.poisoned, _) | some (.good, _) | none => t) s := by
  refine congrArg (fun f => reports.foldl f s) ?_
  funext t r
  exact State.handCopyWord_eq tag line t r

/-- Settles O39: the state of the end is that of the hand-on, with the channel free and the record's tables. -/
theorem copyStepEndAdvancesTheCursor : Obligations.CopyStepEndAdvancesTheCursor := by
  intro s m line cursor reports live tenure copying entry below tag
  have handed := s.handCopy_accounted m.origin.tag? line reports
  have news := congrArg State.news (s.handCopy_table m.origin.tag? line reports)
  refine ⟨_, exec_copyStepEnd live tenure copying, ?_⟩
  rw [State.endCopyStep_advances (s := s.freeChannel) entry below, MigrationRecord.count_eq, State.freeChannel,
    State.withArbiter_handCopy]
  exact ⟨rfl, news, rfl, handed.memory, s.handCopy_admission ..,
    handed.port, handed.engine, handed.patrol, handed.straps, handed.attn, handed.resetAsserted, handed.pending⟩

/-! ### Cut-over (R78, R79) -/

/-- The tables after a cut-over, before the next request is taken (R78, R79 steps 2 and 5). -/
def Tables.retired (t : Tables) (m : MigrationRecord) : Tables :=
  { (t.cutOver m).removeSuspect m.frame with migration := none }

/-- The spares after a cut-over: the target ASSIGNED, an old spare FAILED (R78). -/
def Tables.retiredSpares (t : Tables) (m : MigrationRecord) : List SpareState :=
  match m.old with
  | none => t.spares.set m.target .assigned
  | some c => (t.spares.set m.target .assigned).set c .failed

section
variable (t : Tables) (m : MigrationRecord)

@[simp] theorem Tables.retired_spares : (t.retired m).spares = t.retiredSpares m := by
  unfold Tables.retired Tables.cutOver Tables.failOld Tables.retiredSpares
  cases m.old <;> rfl
/-- A cut-over does not look at the record that the unit holds. -/
theorem Tables.retired_withMigration (x : Option MigrationRecord) :
    ({ t with migration := x } : Tables).retired m = t.retired m := by
  unfold Tables.retired Tables.cutOver Tables.failOld
  cases m.old <;> rfl
@[simp] theorem Tables.retired_migration : (t.retired m).migration = none := rfl
@[simp] theorem Tables.retired_retireQueue : (t.retired m).retireQueue = t.retireQueue := by
  unfold Tables.retired Tables.cutOver Tables.failOld
  cases m.old <;> rfl
@[simp] theorem Tables.retired_regions : (t.retired m).regions = t.regions := by
  unfold Tables.retired Tables.cutOver Tables.failOld
  cases m.old <;> rfl
@[simp] theorem Tables.retired_defaults : (t.retired m).defaults = t.defaults := by
  unfold Tables.retired Tables.cutOver Tables.failOld
  cases m.old <;> rfl
@[simp] theorem Tables.retired_evictionPointer : (t.retired m).evictionPointer = t.evictionPointer := by
  unfold Tables.retired Tables.cutOver Tables.failOld
  cases m.old <;> rfl
theorem Tables.retired_suspects : (t.retired m).suspects = (t.removeSuspect m.frame).suspects := by
  unfold Tables.retired Tables.cutOver Tables.failOld
  cases m.old <;> rfl
theorem Tables.retired_entryOf (frame : Nat) : (t.retired m).entryOf frame = (t.cutOver m).entryOf frame := rfl

theorem Tables.retired_entryOf_other {frame : Nat} (other : frame ≠ m.frame) :
    (t.retired m).entryOf frame = t.entryOf frame := by
  rw [Tables.retired_entryOf]
  unfold Tables.cutOver Tables.failOld
  cases m.old <;> exact t.entryOf_putEntry_other _ other

/-- The retired frame has no suspect entry (R79 step 2). -/
theorem Tables.retired_suspectOf : (t.retired m).suspectOf m.frame = none := by
  have gone : (t.retired m).suspects.find? (fun p => p.any fun e => e.frame == m.frame) = none := by
    rw [Tables.retired_suspects, Tables.removeSuspect, List.find?_map, Option.map_eq_none_iff, List.find?_eq_none]
    intro p _
    by_cases mine : p.any (fun e => e.frame == m.frame) = true <;> simp [mine]
  rw [Tables.suspectOf, gone]
  rfl

/-- The suspects after a cut-over, each other frame's entry given a retire state or left as it is. -/
theorem Tables.retired_suspects_map (st : Nat → Option RetireState) :
    (t.retired m).suspects.map (Option.map fun e : SuspectEntry => { e with retire := (st e.frame).getD e.retire })
      = t.suspects.map fun p => match p with
        | none => none
        | some e => if e.frame = m.frame then none else some { e with retire := (st e.frame).getD e.retire } := by
  rw [Tables.retired_suspects, Tables.removeSuspect, List.map_map]
  refine List.map_congr_left fun p _ => ?_
  rcases p with _ | e
  · rfl
  · by_cases mine : e.frame = m.frame <;> simp [mine]

end

/-- The events of the last Copy Step and of the cut-over, in their order: the detections, SPARE_FAILED, RETIRE_DONE (R77,
R79 steps 1 and 3). -/
def State.reportsRetired (s : State) (m : MigrationRecord) (line : Nat) (reports : List WordReport) : State :=
  ((s.handCopy m.origin.tag? line reports).offerSpareFailed m).offer
    (retireEvent .retireDone m.origin m.frame (some m.target) (causeBit m.origin m.cause) m.poisonedLines)

/-- The state after a cut-over, before the next request is taken (R78, R79). -/
def State.cutOverDone (s : State) (m : MigrationRecord) (line : Nat) (reports : List WordReport) : State :=
  ((s.reportsRetired m line reports).completeOrigin m.origin m.doneStatus 64 m.corrected m.uncorrectable m.poisonedWords
    (retireResult m.target m.poisonedLines)).withTables (s.tables.retired m)

section
variable (s : State) (m : MigrationRecord)

theorem State.offerSpareFailed_accounted : Accounted s (s.offerSpareFailed m) := by
  unfold State.offerSpareFailed
  cases m.old
  · exact .refl s
  · exact s.offer_accounted _

theorem State.withTables_offerSpareFailed (x : Tables) :
    (s.withTables x).offerSpareFailed m = (s.offerSpareFailed m).withTables x := by
  unfold State.offerSpareFailed
  cases m.old
  · rfl
  · exact s.withTables_offer _ x

theorem State.withArbiter_offerSpareFailed (x : Arbiter) :
    (s.withArbiter x).offerSpareFailed m = (s.offerSpareFailed m).withArbiter x := by
  unfold State.offerSpareFailed
  cases m.old
  · rfl
  · exact s.withArbiter_offer _ x

@[simp] theorem State.offerSpareFailed_tables : (s.offerSpareFailed m).tables = s.tables := by
  unfold State.offerSpareFailed
  cases m.old <;> simp

@[simp] theorem State.offerSpareFailed_admission : (s.offerSpareFailed m).admission = s.admission := by
  unfold State.offerSpareFailed
  cases m.old <;> simp

theorem State.completeOrigin_withTables (o : Origin) (st : Status) (l c u p : Nat) (result : BitVec 28) (x : Tables) :
    (s.withTables x).completeOrigin o st l c u p result = (s.completeOrigin o st l c u p result).withTables x := by
  cases o <;> rfl

variable (line : Nat) (reports : List WordReport)

@[simp] theorem State.reportsRetired_admission : (s.reportsRetired m line reports).admission = s.admission := by
  simp [State.reportsRetired]

@[simp] theorem State.reportsRetired_tables : (s.reportsRetired m line reports).tables = s.tables := by
  simp [State.reportsRetired]

theorem State.reportsRetired_accounted : Accounted s (s.reportsRetired m line reports) :=
  ((s.handCopy_accounted ..).trans (State.offerSpareFailed_accounted ..)).thenOffer _

theorem State.withArbiter_reportsRetired (x : Arbiter) :
    (s.withArbiter x).reportsRetired m line reports = (s.reportsRetired m line reports).withArbiter x := by
  rw [State.reportsRetired, State.withArbiter_handCopy, State.withArbiter_offerSpareFailed, State.withArbiter_offer,
    State.reportsRetired]

/-- A cut-over is accounting but for the tables it names. -/
theorem State.cutOverDone_accounted : Accounted s (s.cutOverDone m line reports) :=
  ((s.reportsRetired_accounted m line reports).trans (State.completeOrigin_accounted ..)).thenTables _ (by simp) (by simp)

theorem State.cutOverDone_news : (s.cutOverDone m line reports).news = (s.reportsRetired m line reports).news := by
  unfold State.cutOverDone
  cases m.origin <;> rfl

/-- The completion of a commanded retirement that cut over (R79 step 4, R88). -/
theorem State.cutOverDone_admission : (s.cutOverDone m line reports).admission = { s.admission with
    backlog := s.admission.backlog ++ match m.origin with
      | .auto => []
      | .command tag => [⟨tag, 5#4, m.doneStatus, 64, m.corrected, m.uncorrectable, m.poisonedWords,
          retireResult m.target m.poisonedLines, true⟩] } := by
  unfold State.cutOverDone
  cases m.origin <;> simp [State.completeOrigin, State.complete]

end

/-- A cut-over offers its events and changes its tables, and the next request is taken (R78, R79). -/
theorem State.cutOver_eq (s : State) (m : MigrationRecord) : s.cutOver m
    = State.startMigrations ((((s.offerSpareFailed m).offer
        (retireEvent .retireDone m.origin m.frame (some m.target) (causeBit m.origin m.cause) m.poisonedLines)).completeOrigin
        m.origin m.doneStatus 64 m.corrected m.uncorrectable m.poisonedWords
        (retireResult m.target m.poisonedLines)).withTables (s.tables.retired m)) := by
  simp only [State.cutOver, State.withTables_offerSpareFailed, State.withTables_offer, State.withTables_withTables,
    State.completeOrigin_withTables, State.withTables_tables]
  rfl

/-- At line 63 the frame is cut over and the next request is taken (R76, R79 step 6). -/
theorem State.endCopyStep_cutsOver {s : State} {m : MigrationRecord} (line : Nat) (reports : List WordReport)
    (last : s.tables.cursorOf m.frame = 63) :
    s.endCopyStep m line reports = (s.cutOverDone (m.count reports) line reports).startMigrations := by
  have counted := s.withTables_handCopy m.origin.tag? line reports { s.tables with migration := some (m.count reports) }
  have cursor_eq : ({ s.tables with migration := some (m.count reports) } : Tables).cursorOf (m.count reports).frame
      = 63 := last
  unfold State.handCopy at counted
  simp only [State.endCopyStep]
  rw [show (m.count reports).origin.tag? = m.origin.tag? from rfl, counted, State.withTables_tables, cursor_eq,
    if_neg (by decide), State.cutOver_eq, State.withTables_tables, Tables.retired_withMigration]
  simp only [State.withTables_offerSpareFailed, State.withTables_offer, State.completeOrigin_withTables,
    State.withTables_withTables]
  rfl

/-! ### The next request (R72 to R74) -/

/-- Requests that are taken bring no suspect entry to a frame without one, and the eviction pointer stands. -/
theorem startFrom_suspects (l : List RetireRequest) (s : State) {frame : Nat} (gone : s.tables.suspectOf frame = none) :
    (startFrom l s).tables.suspectOf frame = none
      ∧ (startFrom l s).tables.evictionPointer = s.tables.evictionPointer := by
  have stays (t : Tables) (f : Nat) (st : RetireState) (none : t.suspectOf frame = none) :
      (t.setRetire f st).suspectOf frame = .none := by
    rw [Tables.suspectOf_setRetire, none]
    rfl
  induction l generalizing s with
  | nil => exact ⟨gone, rfl⟩
  | cons r rest ih =>
    unfold startFrom
    split
    · dsimp only
      split
      · rw [State.refuseStart_state]
        exact ih _ (stays s.tables r.frame .refused gone)
      · rw [State.beginMigration_eq]
        exact ⟨stays s.tables r.frame .migrating gone, rfl⟩
    · exact ⟨gone, rfl⟩

/-- A retire state given where a condition holds, as a choice of the state. -/
theorem SuspectEntry.retire_ite (e : SuspectEntry) (c : Prop) [Decidable c] (st : RetireState) :
    (if c then { e with retire := st } else e) = { e with retire := (if c then some st else none).getD e.retire } := by
  split <;> rfl

theorem Tables.setRetire_suspects (t : Tables) (frame : Nat) (st : RetireState) : (t.setRetire frame st).suspects
    = t.suspects.map (Option.map fun e =>
      { e with retire := (if e.frame = frame then some st else none).getD e.retire }) := by
  simp only [Tables.setRetire, SuspectEntry.retire_ite]

/-- Accounting adds completions to the backlog and changes nothing else of admission. -/
theorem Accounted.admission {s t : State} (h : Accounted s t) {more : List Completion}
    (backlog : t.admission.backlog = s.admission.backlog ++ more) :
    t.admission = { s.admission with backlog := s.admission.backlog ++ more } := by
  rw [← backlog]
  exact congrArg₂ (fun l slots => (⟨l, slots, t.admission.backlog⟩ : Admission)) h.pendingList h.slots

/-- Settles O40: the cut-over's own tables, events and completion, then what the queue and the pool make of the start. -/
theorem copyStepEndCutsOver : Obligations.CopyStepEndCutsOver := by
  intro s m line reports live tenure copying entry tag corrected uncorrectable poisonedWords poisonedLines spares found
    failed done suspects
  let m' := m.count reports
  let w := s.freeChannel.cutOverDone m' line reports
  have run : exec .copyStepEnd s = .next w.startMigrations.conclude := by
    rw [exec_copyStepEnd live tenure copying,
      State.endCopyStep_cutsOver (s := s.freeChannel) line reports (Tables.cursorOf_migrating entry)]
  have reported : s.reportsRetired m' line reports = done := by
    have found_eq : s.handCopy m.origin.tag? line reports = found := s.handCopy_table m.origin.tag? line reports
    rw [State.reportsRetired, show s.handCopy m'.origin.tag? line reports = found from found_eq]
    rfl
  have cut : Accounted s.freeChannel w := s.freeChannel.cutOverDone_accounted m' line reports
  have news : w.news = done.news := by
    rw [State.cutOverDone_news, State.freeChannel, State.withArbiter_reportsRetired, reported]
    rfl
  have engine : w.engine = done.engine :=
    cut.engine.trans (reported ▸ s.reportsRetired_accounted m' line reports).engine.symm
  have admission : w.admission = { s.admission with backlog := s.admission.backlog ++ match m.origin with
      | .auto => []
      | .command tag => [⟨tag, 5#4, if poisonedLines = 0 then .success else .dataErrors, 64, corrected,
          uncorrectable, poisonedWords, BitVec.ofNat 28 (m.target % 64 + poisonedLines % 128 * 256), true⟩] } := by
    have corrected_eq : m'.corrected = corrected := congrArg (·.corrected) (m.count_eq reports)
    have uncorrectable_eq : m'.uncorrectable = uncorrectable := congrArg (·.uncorrectable) (m.count_eq reports)
    rw [State.cutOverDone_admission, corrected_eq, uncorrectable_eq]
    rfl
  have started := w.startMigrations_accounted
  have all := cut.trans started
  have gone := startFrom_suspects w.tables.retireQueue w (s.tables.retired_suspectOf m')
  obtain ⟨more, backlog⟩ := started.backlog
  have more_eq {l : List Completion} (joined : w.startMigrations.admission.backlog = w.admission.backlog ++ l) : more = l :=
    List.append_cancel_left (backlog.symm.trans joined)
  have spares_eq : w.tables.spares = spares := s.tables.retired_spares m'
  have queue_eq : w.tables.retireQueue = s.tables.retireQueue := s.tables.retired_retireQueue m'
  have entry_eq : w.tables.entryOf m.frame = some ⟨m.frame, .active m.target⟩ := s.tables.cutOver_entryOf m'
  have other_eq (frame : Nat) (other : frame ≠ m.frame) : w.tables.entryOf frame = s.tables.entryOf frame :=
    s.tables.retired_entryOf_other m' other
  have suspects_eq (st : Nat → Option RetireState) : w.tables.suspects.map
      (Option.map fun e : SuspectEntry => { e with retire := (st e.frame).getD e.retire }) = suspects st :=
    s.tables.retired_suspects_map m' st
  refine ⟨w.startMigrations, more, run, ?_, gone.1, all.regions, gone.2.trans (s.tables.retired_evictionPointer m'),
    all.arbiter, all.memory, all.port, all.engine, all.patrol, all.pending, fun empty => ?_,
    fun r rest t queue other retires free lowest => ?_, fun retires taken => ?_⟩
  · have joined := started.admission backlog
    rw [admission] at joined
    exact joined
  · have nothing : w.startMigrations = w := State.startMigrations_empty (queue_eq.trans empty)
    have none_eq := more_eq (l := []) (by rw [nothing, List.append_nil])
    rw [nothing]
    exact ⟨entry_eq, other_eq, spares_eq, rfl, queue_eq.trans empty, news,
      Eq.trans (by simp) (suspects_eq fun _ => none), none_eq⟩
  · have head := State.startMigrations_head (s := w) rfl (cut.engine ▸ retires) (queue_eq.trans queue)
      (Tables.lowestFreeSpare_eq_some (spares_eq ▸ free) (spares_eq ▸ lowest))
    have none_eq := more_eq (l := []) (by rw [head, List.append_nil]; simp)
    have current : w.tables.currentOf r.frame = (s.tables.entryOf r.frame).bind fun e => e.state.current? :=
      congrArg (Option.bind · _) (other_eq r.frame other)
    intro old
    rw [head]
    exact ⟨(w.tables.started_entryOf_other r t other.symm).trans entry_eq,
      (w.tables.started_entryOf r t).trans (congrArg (fun c => some (⟨r.frame, .migrating c t 0⟩ : RemapEntry)) current),
      fun f notMine notHead => (w.tables.started_entryOf_other r t notHead).trans (other_eq f notMine),
      by rw [← spares_eq]; rfl, rfl,
      congrArg (fun c => some (⟨r.frame, r.origin, r.cause, t, c, 0, 0, 0, 0, .waiting⟩ : MigrationRecord)) current,
      State.offer_news_congr _ news engine, (w.tables.setRetire_suspects r.frame .migrating).trans
        (suspects_eq fun f => if f = r.frame then some .migrating else none), none_eq⟩
  · obtain ⟨events, completions, refused⟩ := startFrom_noSpare s.tables.retireQueue w (cut.engine ▸ retires) rfl
      (Tables.lowestFreeSpare_eq_none (spares_eq ▸ taken)) queue_eq
    have queued : startFrom s.tables.retireQueue w = w.startMigrations := by rw [State.startMigrations, queue_eq]
    rw [queued] at events completions refused
    simp only [SuspectEntry.retire_ite] at refused
    rw [refused]
    exact ⟨entry_eq, other_eq, spares_eq, rfl, rfl,
      events.trans (State.foldl_offer_news_congr _ _ news engine),
      suspects_eq fun f => if s.tables.retireQueue.any (·.frame == f) then some .refused else none,
      more_eq (congrArg Admission.backlog completions)⟩

end Sys2Proof.Machine
end

section
/-!
ABORT (R82, R83, R132, R133): where its target stands, and what becomes of it there. Settled here: O58.
-/

namespace Sys2Proof.Machine

/-! ### Where the target stands (R132) -/

section
variable {s : State} {target : Tag}

/-- A target in the pending list is found first. -/
theorem State.abortTarget_eq_pending {before behind : List PendingCommand} {p : PendingCommand}
    (list : s.admission.pendingList = before ++ p :: behind) (mine : p.tag = target)
    (others : ∀ q ∈ before, q.tag ≠ target) : s.abortTarget target = .pending p := by
  have found : s.admission.pendingList.find? (fun q => q.tag == target) = some p := by
    rw [list, List.find?_append, List.find?_eq_none.2 fun q inside => by simpa using others q inside]
    simp [mine]
  rw [State.abortTarget, found]

/-- The target of an ABORT in a slot: the first unmarked one with the tag. -/
theorem State.workingSlot_eq_some {k : Nat} {sl : Slot} (here : s.slotAt k = some sl) (mine : sl.tag = target)
    (unmarked : sl.abortedBy = none)
    (first : ∀ j < k, ∀ x, s.slotAt j = some x → ¬(x.tag = target ∧ x.abortedBy = none)) :
    s.workingSlot target = some (k, sl) := by
  obtain ⟨inside, place⟩ := List.getElem?_eq_some_iff.1 ((s.slotAt_iff k sl).1 here)
  have found : s.admission.slots.findIdx? (fun p => p.any fun sl => sl.tag == target && sl.abortedBy.isNone) = some k := by
    refine List.findIdx?_eq_some_iff_getElem.2 ⟨inside, by simp [place, mine, unmarked], fun j below => ?_⟩
    rcases earlier : s.admission.slots[j] with _ | x
    · simp
    · have other := first j below x ((s.slotAt_iff j x).2 (List.getElem?_eq_some_iff.2 ⟨_, earlier⟩))
      simpa using other
  rw [State.workingSlot, found]
  simp only [here, Option.map_some]

theorem State.workingSlot_eq_none (noSlot : ∀ j x, s.slotAt j = some x → ¬(x.tag = target ∧ x.abortedBy = none)) :
    s.workingSlot target = none := by
  have absent : s.admission.slots.findIdx? (fun p => p.any fun sl => sl.tag == target && sl.abortedBy.isNone) = none := by
    refine List.findIdx?_eq_none_iff.2 fun p inside => ?_
    obtain ⟨j, place⟩ := List.mem_iff_getElem?.1 inside
    rcases p with _ | x
    · rfl
    · simpa [Option.isSome_iff_ne_none] using noSlot j x ((s.slotAt_iff j x).2 place)
  rw [State.workingSlot, absent]

/-- The first request of the target in the Retire Queue. -/
theorem State.workingRetire_eq_queued {before behind : List RetireRequest} {r : RetireRequest}
    (queue : s.tables.retireQueue = before ++ r :: behind) (mine : r.origin = .command target)
    (others : ∀ q ∈ before, q.origin ≠ .command target) : s.workingRetire target = .queued r := by
  have found : s.tables.retireQueue.find? (fun r => r.origin == .command target) = some r := by
    rw [queue, List.find?_append, List.find?_eq_none.2 fun q inside => by simpa using others q inside]
    simp [mine]
  rw [State.workingRetire, found]

section
variable (notQueued : ∀ r ∈ s.tables.retireQueue, r.origin ≠ .command target)
include notQueued

theorem State.workingRetire_eq_migrating {m : MigrationRecord} (copying : s.tables.migration = some m)
    (mine : m.origin = .command target) : s.workingRetire target = .migrating m := by
  rw [State.workingRetire, List.find?_eq_none.2 fun q inside => by simpa using notQueued q inside]
  simp only [copying, if_pos mine]

theorem State.workingRetire_eq_notFound (notMigrating : ∀ m, s.tables.migration = some m → m.origin ≠ .command target) :
    s.workingRetire target = .notFound := by
  rw [State.workingRetire, List.find?_eq_none.2 fun q inside => by simpa using notQueued q inside]
  cases copying : s.tables.migration with
  | none => rfl
  | some m => exact if_neg (notMigrating m copying)

end

variable (notPending : ∀ p ∈ s.admission.pendingList, p.tag ≠ target)
include notPending

theorem State.abortTarget_eq_slot {k : Nat} {sl : Slot} (working : s.workingSlot target = some (k, sl)) :
    s.abortTarget target = .slot k sl := by
  rw [State.abortTarget, List.find?_eq_none.2 fun q inside => by simpa using notPending q inside]
  simp only [working]

theorem State.abortTarget_eq_workingRetire
    (noSlot : ∀ j x, s.slotAt j = some x → ¬(x.tag = target ∧ x.abortedBy = none)) :
    s.abortTarget target = s.workingRetire target := by
  rw [State.abortTarget, List.find?_eq_none.2 fun q inside => by simpa using notPending q inside]
  simp only [State.workingSlot_eq_none noSlot]

end

/-! ### What becomes of the target (R82, R83, R132, R133) -/

section
variable (s : State)

/-- Two completions join the backlog in their order (R141). -/
theorem State.complete_complete (a b : Completion) : (s.complete a).complete b
    = s.withAdmission { s.admission with backlog := s.admission.backlog ++ [a, b] } := by
  simp [State.complete]

/-- The arbiter when the reports of a Copy Step in tenure will be discarded (R83). -/
def Arbiter.discardingCopy (a : Arbiter) : Arbiter :=
  { a with tenure := a.tenure.map fun t => if t.work = .copyStep then { t with discarded := true } else t }

theorem State.discardTenure_copyStep : s.discardTenure (· == .copyStep) = s.withArbiter s.arbiter.discardingCopy := by
  simp [State.discardTenure, Arbiter.discardingCopy]

/-- A queued RETIRE aborted: its event, its completion, and it leaves the queue (R82). -/
theorem State.abortQueued_eq (r : RetireRequest) : s.abortQueued r
    = ((s.offer (retireEvent .retireAborted r.origin r.frame none false 0)).completeOrigin r.origin .aborted 0 0 0 0
        0#28).withTables (({ s.tables with retireQueue := s.tables.retireQueue.filter fun q => !(q.frame == r.frame)
          } : Tables).setRetire r.frame .none) := by
  simp only [State.abortQueued, State.withTables_offer, State.completeOrigin_withTables, State.withTables_withTables,
    State.withTables_tables]

end

section
variable (t : Tables)

/-- The tables when the migrating RETIRE is aborted: its source backs the frame again, its target is FREE, the unit IDLE, and
its suspect entry NONE (R63, R83). -/
def Tables.aborted (m : MigrationRecord) : Tables :=
  { t with
    remap := (t.revert m).remap
    spares := t.spares.set m.target .free
    migration := none
    suspects := (t.setRetire m.frame .none).suspects }

theorem Tables.revert_setRetire (m : MigrationRecord) : (t.revert m).setRetire m.frame .none = t.aborted m := by
  unfold Tables.aborted Tables.revert
  cases m.old <;> rfl

theorem Tables.aborted_entryOf (m : MigrationRecord) :
    (t.aborted m).entryOf m.frame = m.old.map (⟨m.frame, .active ·⟩) := t.revert_entryOf m

theorem Tables.aborted_entryOf_other (m : MigrationRecord) {f : Nat} (other : f ≠ m.frame) :
    (t.aborted m).entryOf f = t.entryOf f := t.revert_entryOf_other m other

/-- Two frames' entries given a retire state, one after the other. -/
theorem Tables.setRetire_setRetire_other {f g : Nat} (other : g ≠ f) (a b : RetireState) :
    ((t.setRetire f a).setRetire g b).suspects = t.suspects.map (Option.map fun e =>
      if e.frame = f then { e with retire := a } else if e.frame = g then { e with retire := b } else e) := by
  simp only [Tables.setRetire, List.map_map]
  refine List.map_congr_left fun p _ => ?_
  rcases p with _ | e
  · rfl
  · by_cases mine : e.frame = f
    · simp [mine, other.symm]
    · simp [mine]

/-- The tables when the next request is taken after an abort (R74, R83). -/
theorem Tables.aborted_started {m : MigrationRecord} {r : RetireRequest} (rest : List RetireRequest) (k : Nat)
    (other : r.frame ≠ m.frame) :
    ({ t.aborted m with retireQueue := rest } : Tables).started r k = { t with
      remap := (({ t.aborted m with retireQueue := rest } : Tables).started r k).remap
      spares := (t.spares.set m.target .free).set k .target
      retireQueue := rest
      migration := some ⟨r.frame, r.origin, r.cause, k, t.currentOf r.frame, 0, 0, 0, 0, .waiting⟩
      suspects := t.suspects.map (Option.map fun e => if e.frame = m.frame then { e with retire := .none }
        else if e.frame = r.frame then { e with retire := .migrating } else e) } := by
  have current : (t.aborted m).currentOf r.frame = t.currentOf r.frame :=
    congrArg (Option.bind · _) (t.aborted_entryOf_other m other)
  have suspects := t.setRetire_setRetire_other other .none .migrating
  exact congrArg₂ (fun c l => { t with
    remap := (({ t.aborted m with retireQueue := rest } : Tables).started r k).remap
    spares := (t.spares.set m.target .free).set k .target
    retireQueue := rest
    migration := some ⟨r.frame, r.origin, r.cause, k, c, 0, 0, 0, 0, .waiting⟩
    suspects := l }) current suspects

end

/-- The migrating RETIRE aborted: its event, its Copy Step's reports discarded, its completion, and the migration reverted
(R83). -/
theorem State.abortMigration_eq (s : State) (m : MigrationRecord) : s.abortMigration m
    = (((s.offer (retireEvent .retireAborted m.origin m.frame (some m.target) false 0)).withArbiter
        s.arbiter.discardingCopy).completeOrigin m.origin .aborted (s.tables.cursorOf m.frame) m.corrected m.uncorrectable
        m.poisonedWords (retireResult m.target m.poisonedLines)).withTables (s.tables.aborted m) := by
  rw [← Tables.revert_setRetire]
  simp only [State.abortMigration, State.discardTenure_copyStep, State.withArbiter_offer, State.withTables_offer]
  cases m.origin <;> rfl

/-- A commanded retirement's completion and the ABORT's own join the backlog in their order (R82, R83). -/
theorem State.completeOrigin_complete (s : State) (target tag : Tag) (l c u p : Nat) (result : BitVec 28) (x : Tables) :
    ((s.completeOrigin (.command target) .aborted l c u p result).withTables x).complete (abortCompletion tag .success)
      = (s.withAdmission { s.admission with backlog := s.admission.backlog
          ++ [⟨target, 5#4, .aborted, l, c, u, p, result, true⟩, abortCompletion tag .success] }).withTables x := by
  rw [← State.complete_complete]
  rfl

/-! ### ABORT (R166) -/

/-- An ABORT that is let in is carried out at once (R131, R132). -/
theorem exec_abort {s : State} {tag : Tag} (target : Tag) (admits : s.admits = true) (fresh : tag ∉ s.tagSet) :
    exec (.abort tag target) s = .next (s.abort tag target).conclude := by
  have judged : s.judge ⟨tag, (Command.abort target).kindCode, some (.abort target)⟩ = .inr (.abort target) := by
    simp [State.judge, Command.fieldsOk, Command.addressesOk, fresh]
  simp only [exec, execAbort, State.presentRecord, admits, if_true, State.takeRecord, judged]

/-- The state after the migrating RETIRE is aborted and the ABORT completes, before the next request is taken (R83). -/
def State.migrationAborted (s : State) (tag target : Tag) (m : MigrationRecord) (cursor : Nat) : State :=
  (((s.offer (retireEvent .retireAborted (.command target) m.frame (some m.target) false 0)).withArbiter
      s.arbiter.discardingCopy).withAdmission { s.admission with backlog := s.admission.backlog
        ++ [⟨target, 5#4, .aborted, cursor, m.corrected, m.uncorrectable, m.poisonedWords,
          retireResult m.target m.poisonedLines, true⟩, abortCompletion tag .success] }).withTables (s.tables.aborted m)

theorem State.migrationAborted_engine (s : State) (tag target : Tag) (m : MigrationRecord) (cursor : Nat) :
    (s.migrationAborted tag target m cursor).engine = s.engine := s.offer_engine _

theorem State.abortMigration_complete {s : State} {m : MigrationRecord} {target : Tag} {cursor : Nat} (tag : Tag)
    (mine : m.origin = .command target)
    (entry : s.tables.entryOf m.frame = some ⟨m.frame, .migrating m.old m.target cursor⟩) :
    (s.abortMigration m).complete (abortCompletion tag .success) = s.migrationAborted tag target m cursor := by
  rw [State.abortMigration_eq, mine, State.completeOrigin_complete, State.withArbiter_admission, State.offer_admission,
    Tables.cursorOf_migrating entry]
  rfl

/-- An ABORT of the migrating RETIRE reverts it, the next request is taken, and the head of the list is judged (R83). -/
theorem State.abort_migrating {s : State} {m : MigrationRecord} {target : Tag} {cursor : Nat} (tag : Tag)
    (notPending : ∀ p ∈ s.admission.pendingList, p.tag ≠ target)
    (noSlot : ∀ j x, s.slotAt j = some x → ¬(x.tag = target ∧ x.abortedBy = none))
    (notQueued : ∀ r ∈ s.tables.retireQueue, r.origin ≠ .command target) (copying : s.tables.migration = some m)
    (mine : m.origin = .command target)
    (entry : s.tables.entryOf m.frame = some ⟨m.frame, .migrating m.old m.target cursor⟩) :
    s.abort tag target = (s.migrationAborted tag target m cursor).startMigrations.issueAll := by
  rw [State.abort, State.abortTarget_eq_workingRetire notPending noSlot,
    State.workingRetire_eq_migrating notQueued copying mine]
  exact congrArg (·.startMigrations.issueAll) (State.abortMigration_complete tag mine entry)

/-- A list's element taken out by what it alone fulfils. -/
theorem filter_append_cons {α : Type} {keep : α → Bool} {before behind : List α} {x : α} (out : keep x = false)
    (first : ∀ y ∈ before, keep y = true) (last : ∀ y ∈ behind, keep y = true) :
    (before ++ x :: behind).filter keep = before ++ behind := by
  rw [List.filter_append, List.filter_cons_of_neg (by simp [out]), List.filter_eq_self.2 first, List.filter_eq_self.2 last]

/-- Settles O58: where the target is found decides what the ABORT does. -/
theorem abortReachesItsTarget : Obligations.AbortReachesItsTarget := by
  intro tag target s admits fresh self inSlot noSlot stopped aborted offered
  have run := exec_abort target admits fresh
  refine ⟨fun before p behind list mine first last => ?_, fun notPending => ⟨fun k sl found waits => ?_,
    fun k sl found works => ?_, fun r before behind absent queue mine first last => ?_,
    fun m cursor absent empty copying mine entry => ?_,
    fun m cursor r rest t absent queue notQueued copying mine entry other free lowest => ?_,
    fun absent notQueued notMigrating => ?_⟩⟩
  · rw [run, State.abort, State.abortTarget_eq_pending list mine first]
    simp only [State.abortPending, State.complete_complete, list]
    rw [filter_append_cons (by simp) (fun q inside => by simpa [mine] using first q inside)
      fun q inside => by simpa [mine] using last q inside, mine]
    rfl
  · obtain ⟨here, mine, unmarked, earlier⟩ := found
    rw [run, State.abort, State.abortTarget_eq_slot notPending (State.workingSlot_eq_some here mine unmarked earlier)]
    have notWorking : ¬ sl.phase = .inTenure := by simp [waits]
    have emptied (c : Completion) : (s.abortWaitingSlot k sl).complete c
        = ((s.complete (sl.completion .aborted)).complete c).setSlot k none := rfl
    simp only [if_neg notWorking]
    rw [emptied, State.complete_complete, Slot.completion, mine]
    rfl
  · obtain ⟨here, mine, unmarked, earlier⟩ := found
    rw [run, State.abort, State.abortTarget_eq_slot notPending (State.workingSlot_eq_some here mine unmarked earlier)]
    simp only [if_pos works]
    rfl
  · rw [run, State.abort, State.abortTarget_eq_workingRetire notPending absent,
      State.workingRetire_eq_queued queue mine fun q inside => (first q inside).1]
    simp only [State.abortQueued_eq, mine, queue]
    rw [filter_append_cons (by simp) (fun q inside => by simpa using (first q inside).2)
      fun q inside => by simpa using last q inside, State.completeOrigin_complete, State.offer_admission]
    rfl
  · rw [run, State.abort_migrating tag notPending absent (by simp [empty]) copying mine entry,
      State.startMigrations_empty (s := s.migrationAborted tag target m cursor) empty]
    exact ⟨_, rfl, s.tables.aborted_entryOf m, fun f other => s.tables.aborted_entryOf_other m other⟩
  · have head := State.startMigrations_head (s := s.migrationAborted tag target m cursor) rfl
      (by rw [State.migrationAborted_engine]; exact State.retires_of_admits admits) queue
      (Tables.lowestFreeSpare_eq_some free lowest)
    let u : Tables := { s.tables.aborted m with retireQueue := rest }
    have current : u.currentOf r.frame = s.tables.currentOf r.frame :=
      congrArg (Option.bind · _) (s.tables.aborted_entryOf_other m other)
    intro old
    rw [run, State.abort_migrating tag notPending absent notQueued copying mine entry, head, State.migrationAborted,
      State.withTables_offer, State.withAdmission_offer, State.withArbiter_offer, State.withTables_withTables]
    refine ⟨(u.started r t).remap, ?_, (u.started_entryOf_other r t other.symm).trans (s.tables.aborted_entryOf m),
      (u.started_entryOf r t).trans (congrArg (fun c => some (⟨r.frame, .migrating c t 0⟩ : RemapEntry)) current),
      fun f notMine notHead => (u.started_entryOf_other r t notHead).trans (s.tables.aborted_entryOf_other m notMine)⟩
    exact congrArg (fun x => Host.Outcome.next (State.conclude (State.issueAll (State.withTables _ x))))
      (s.tables.aborted_started rest t other)
  · rw [run, State.abort, State.abortTarget_eq_workingRetire notPending absent,
      State.workingRetire_eq_notFound notQueued notMigrating]
    rfl

end Sys2Proof.Machine
end

section
/-!
The Suspect Table emptied (R94, R97, R98): decay at the end of a pass, and CLEAR_SUSPECT. Settled here: O43, O56.
-/

namespace Sys2Proof.Machine

/-! ### Places -/

section
variable {α β : Type}

theorem placeAt_eq_some {l : List (Option α)} {i : Nat} {x : α} :
    placeAt l i = some x ↔ l[i]? = some (some x) := Option.join_eq_some_iff

/-- A list of places changed place by place. -/
theorem placeAt_map_bind (l : List (Option α)) (f : α → Option β) (i : Nat) :
    placeAt (l.map (·.bind f)) i = (placeAt l i).bind f := by
  unfold placeAt
  rw [List.getElem?_map]
  rcases l[i]? with _ | _ | x <;> rfl

/-- A list of places whose entries change and stay. -/
theorem placeAt_map_map (l : List (Option α)) (f : α → β) (i : Nat) :
    placeAt (l.map (Option.map f)) i = (placeAt l i).map f := by
  unfold placeAt
  rw [List.getElem?_map]
  rcases l[i]? with _ | _ | x <;> rfl

end

/-! ### Decay (R97) -/

/-- The entry as R97 says, its pinning spelled out. -/
theorem SuspectEntry.decayed_eq (e : SuspectEntry) : e.decayed
    = if e.corrected < 2 ∧ e.uncorrectable < 2 ∧ (e.retire = .none ∨ e.retire = .refused) then none
      else some { e with corrected := e.corrected / 2, uncorrectable := e.uncorrectable / 2 } := by
  have halved (n : Nat) : n / 2 = 0 ↔ n < 2 := by omega
  have unpinned : ({ e with corrected := e.corrected / 2, uncorrectable := e.uncorrectable / 2 } : SuspectEntry).pinned
      = false ↔ e.retire = .none ∨ e.retire = .refused := by
    rcases e with ⟨_, _, _, _, _, _ | _ | _ | _⟩ <;> simp [SuspectEntry.pinned]
  simp only [SuspectEntry.decayed, halved, unpinned]

theorem Tables.placeAt_decay (t : Tables) (i : Nat) :
    placeAt t.decay.suspects i = (placeAt t.suspects i).bind SuspectEntry.decayed := placeAt_map_bind ..

/-- Settles O43: each place decays for itself. -/
theorem decayHalvesEveryCount : Obligations.DecayHalvesEveryCount := by
  intro t i
  refine ⟨fun free => ?_, fun e entry => ?_, rfl⟩
  · rw [t.placeAt_decay, free]
    rfl
  · rw [t.placeAt_decay, entry, Option.bind_some, SuspectEntry.decayed_eq]

/-! ### CLEAR_SUSPECT (R98, R162) -/

theorem SuspectEntry.pinned_iff (e : SuspectEntry) : e.pinned = true ↔ e.retire = .queued ∨ e.retire = .migrating := by
  rcases e with ⟨_, _, _, _, _, _ | _ | _ | _⟩ <;> simp [SuspectEntry.pinned]

/-- The places of the frame's entries become free, and no other place changes (R94). -/
theorem Tables.placeAt_removeSuspect (t : Tables) (frame i : Nat) : placeAt (t.removeSuspect frame).suspects i
    = if (placeAt t.suspects i).any (fun x => x.frame == frame) then none else placeAt t.suspects i := by
  unfold Tables.removeSuspect placeAt
  rw [List.getElem?_map]
  rcases t.suspects[i]? with _ | _ | e
  · rfl
  · rfl
  · by_cases mine : e.frame = frame <;> simp [mine]

section
variable {s : State} {tag : Tag} {frame : Nat} {e : SuspectEntry}

theorem State.issueClearSuspect_none (absent : s.tables.suspectOf frame = none) :
    s.issueClearSuspect tag frame = s.complete (Completion.plain tag 9#4 .notFound) := by
  rw [State.issueClearSuspect, absent]

/-- CLEAR_SUSPECT's completion, with the counts and the retire state the entry had (R162). -/
def SuspectEntry.clearCompletion (e : SuspectEntry) (tag : Tag) (status : Status) : Completion :=
  ⟨tag, 9#4, status, 0, e.corrected, e.uncorrectable, 0, BitVec.ofNat 28 (e.retire.code * 16), true⟩

variable (entry : s.tables.suspectOf frame = some e)
include entry

theorem State.issueClearSuspect_pinned (pinned : e.retire = .queued ∨ e.retire = .migrating) :
    s.issueClearSuspect tag frame = s.complete (e.clearCompletion tag .conflict) := by
  rw [State.issueClearSuspect, entry]
  exact if_pos (e.pinned_iff.2 pinned)

theorem State.issueClearSuspect_unpinned (unpinned : e.retire = .none ∨ e.retire = .refused) :
    s.issueClearSuspect tag frame
      = (s.complete (e.clearCompletion tag .success)).withTables (s.tables.removeSuspect frame) := by
  have free : ¬e.pinned = true := by
    rw [e.pinned_iff]
    rcases unpinned with state | state <;> simp [state]
  rw [State.issueClearSuspect, entry]
  exact if_neg free

end

/-- A record that names an address beyond host memory is refused with BAD_ADDRESS (R131). -/
theorem State.presentRecord_badAddress {s : State} {c : Command} (tag : Tag) (admits : s.admits = true)
    (fields : c.fieldsOk s.straps.spareFrames = true) (beyond : c.addressesOk s.straps.hostFrames = false) :
    s.presentRecord tag c
      = .next (s.complete (refusedCompletion ⟨tag, c.kindCode, some c⟩ .badAddress)).conclude := by
  have judged : s.judge ⟨tag, c.kindCode, some c⟩ = .inl .badAddress := by simp [State.judge, fields, beyond]
  simp only [State.presentRecord, admits, if_true, State.takeRecord, judged]

/-- Settles O56: the command issues at once, and the frame's entry decides. -/
theorem clearSuspectOutcomes : Obligations.ClearSuspectOutcomes := by
  intro tag frame s admits nothingAhead done
  refine ⟨fun beyond => ?_, fun inHost fresh => ?_⟩
  · exact State.presentRecord_badAddress (c := .clearSuspect frame.toNat) tag admits rfl
      (decide_eq_false (Nat.not_lt_of_le beyond))
  have run : exec (.clearSuspect tag frame) s = .next (s.issueClearSuspect tag frame.toNat).conclude :=
    s.presentRecord_issues tag (.clearSuspect frame.toNat) admits nothingAhead rfl (decide_eq_true inHost) fresh rfl nofun
  refine ⟨fun absent => ?_, fun e entry => ⟨fun pinned => ?_, fun unpinned => ?_⟩⟩
  · rw [run, State.issueClearSuspect_none absent]
    rfl
  · rw [run, State.issueClearSuspect_pinned entry pinned]
    rfl
  · rw [run, State.issueClearSuspect_unpinned entry unpinned]
    exact ⟨_, rfl, List.length_map .., s.tables.placeAt_removeSuspect frame.toNat⟩

end Sys2Proof.Machine
end

section
/-!
A detection counted (R89 to R93): the place it takes in the Suspect Table, where it leaves the eviction pointer, and what
the offer that may follow leaves standing. Settled here: O41.
-/

namespace Sys2Proof.Machine

/-! ### Places put -/

section
variable {α : Type} {l : List (Option α)} {i j : Nat}

theorem placeAt_set_same (inside : i < l.length) (x : Option α) : placeAt (l.set i x) i = x := by
  rw [placeAt, List.getElem?_set_self inside]
  rfl

theorem placeAt_set_other (x : Option α) (other : j ≠ i) : placeAt (l.set i x) j = placeAt l j := by
  rw [placeAt, List.getElem?_set_ne other.symm, placeAt]

/-- The lowest-numbered free place. -/
theorem firstFree_eq_some (inside : i < l.length) (free : placeAt l i = none) (full : ∀ j < i, placeAt l j ≠ none) :
    firstFree l = some i := by
  refine List.findIdx?_eq_some_iff_getElem.2 ⟨inside, ?_, fun j below => ?_⟩
  · rw [placeAt, List.getElem?_eq_getElem inside] at free
    simpa using free
  · have taken := full j below
    rw [placeAt, List.getElem?_eq_getElem (Nat.lt_trans below inside)] at taken
    simpa using taken

theorem firstFree_eq_none (full : ∀ i < l.length, placeAt l i ≠ none) : firstFree l = none := by
  refine List.findIdx?_eq_none_iff.2 fun p member => ?_
  obtain ⟨i, inside, rfl⟩ := List.mem_iff_getElem.1 member
  have taken := full i inside
  rw [placeAt, List.getElem?_eq_getElem inside] at taken
  exact Bool.eq_false_iff.2 fun free => taken (Option.isNone_iff_eq_none.1 free)

theorem firstFree_some (place : firstFree l = some i) : placeAt l i = none := by
  obtain ⟨inside, free, -⟩ := List.findIdx?_eq_some_iff_getElem.1 place
  rw [placeAt, List.getElem?_eq_getElem inside]
  simpa using free

end

/-! ### Eviction (R93) -/

section
variable {places : List (Option SuspectEntry)}

/-- Eviction passes over the pinned places from the pointer on and stops at the first that is not (R93). -/
theorem evictionPlace_eq {n k pointer : Nat} (enough : k < n) (inTable : pointer < 32)
    (passed : ∀ j < k, (placeAt places ((pointer + j) % 32)).any (·.pinned) = true)
    (stops : (placeAt places ((pointer + k) % 32)).any (·.pinned) = false) :
    evictionPlace places n pointer = (pointer + k) % 32 := by
  induction n generalizing k pointer with
  | zero => exact absurd enough (Nat.not_lt_zero k)
  | succ n ih =>
    cases k with
    | zero =>
      have here : (pointer + 0) % 32 = pointer := Nat.mod_eq_of_lt inTable
      rw [here] at stops
      rw [here, evictionPlace, if_neg (by simp [stops])]
    | succ k =>
      have shift (j : Nat) : (nextPlace pointer + j) % 32 = (pointer + (j + 1)) % 32 := by
        unfold nextPlace
        omega
      have here := passed 0 (Nat.succ_pos k)
      rw [Nat.add_zero, Nat.mod_eq_of_lt inTable] at here
      rw [evictionPlace, if_pos here, ih (Nat.lt_of_succ_lt_succ enough) (nextPlace_lt pointer)
        (fun j below => shift j ▸ passed (j + 1) (Nat.succ_lt_succ below)) (shift k ▸ stops), shift]

/-- While any place is unpinned eviction takes an unpinned one (R93). -/
theorem evictionPlace_unpinned {pointer i : Nat} (inTable : pointer < 32) (inside : i < 32)
    (unpinned : (placeAt places i).any (·.pinned) = false) :
    (placeAt places (evictionPlace places 32 pointer)).any (·.pinned) = false := by
  have reached : ∃ k, (placeAt places ((pointer + k) % 32)).any (·.pinned) = false :=
    ⟨(i + 32 - pointer) % 32, by rwa [show (pointer + (i + 32 - pointer) % 32) % 32 = i by omega]⟩
  have near : Nat.find reached < 32 := by
    refine Nat.lt_of_le_of_lt (Nat.find_min' reached (m := (i + 32 - pointer) % 32) ?_) (Nat.mod_lt _ (by decide))
    rwa [show (pointer + (i + 32 - pointer) % 32) % 32 = i by omega]
  rw [evictionPlace_eq near inTable (fun j below => by simpa using Nat.find_min reached below) (Nat.find_spec reached)]
  exact Nat.find_spec reached

end

/-! ### The place a detection takes (R91 to R93) -/

/-- The place a detection of the frame takes: its entry's, the lowest free one, or the one eviction finds. -/
def Tables.placeFor (t : Tables) (frame : Nat) : Nat := (t.suspectPlace frame).getD t.allocation.1

/-- Where a detection of the frame leaves the eviction pointer. -/
def Tables.pointerPast (t : Tables) (frame : Nat) : Nat :=
  match t.suspectPlace frame with
  | some i => if t.evictionPointer = i then nextPlace t.evictionPointer else t.evictionPointer
  | none => nextPlace t.allocation.2

section
variable {t : Tables} {frame : Nat}

theorem Tables.suspectPlace_eq_some {i : Nat} {e : SuspectEntry} (here : placeAt t.suspects i = some e)
    (mine : e.frame = frame) (before : ∀ j < i, ∀ y, placeAt t.suspects j = some y → y.frame ≠ frame) :
    t.suspectPlace frame = some i := by
  obtain ⟨inside, place⟩ := List.getElem?_eq_some_iff.1 (placeAt_eq_some.1 here)
  refine List.findIdx?_eq_some_iff_getElem.2 ⟨inside, by simp [place, mine], fun j below => ?_⟩
  cases earlier : t.suspects[j] with
  | none => simp
  | some y =>
    have other := before j below y (placeAt_eq_some.2 (List.getElem?_eq_some_iff.2 ⟨Nat.lt_trans below inside, earlier⟩))
    simpa using other

theorem Tables.suspectOf_eq_none_iff : t.suspectOf frame = none ↔ ∀ e, some e ∈ t.suspects → e.frame ≠ frame := by
  constructor
  · intro absent e member mine
    have found : (t.suspects.find? (·.any (·.frame == frame))).isSome = true :=
      List.find?_isSome.2 ⟨some e, member, by simp [mine]⟩
    obtain ⟨p, first⟩ := Option.isSome_iff_exists.1 found
    rw [Tables.suspectOf, first] at absent
    obtain rfl : p = none := absent
    exact absurd (List.find?_some first) (by simp)
  · exact fun absent => Tables.suspectOf_none fun i y here => absent y (List.mem_of_getElem? here)

theorem Tables.suspectPlace_eq_none (absent : t.suspectOf frame = none) : t.suspectPlace frame = none := by
  refine List.findIdx?_eq_none_iff.2 fun p member => ?_
  cases p with
  | none => rfl
  | some e => simpa using Tables.suspectOf_eq_none_iff.1 absent e member

/-- The entry found for a frame stands in the first place with one of that frame. -/
theorem Tables.suspectOf_place {e : SuspectEntry} (entry : t.suspectOf frame = some e) :
    ∃ i, placeAt t.suspects i = some e ∧ ∀ j < i, ∀ y, placeAt t.suspects j = some y → y.frame ≠ frame := by
  cases place : t.suspectPlace frame with
  | none =>
    rw [Tables.suspectOf_none fun i y => Tables.suspectPlace_none (i := i) place] at entry
    cases entry
  | some i =>
    obtain ⟨x, here, mine, before⟩ := Tables.suspectPlace_some place
    obtain rfl : x = e := Option.some.inj ((Tables.suspectOf_first here mine before).symm.trans entry)
    exact ⟨i, placeAt_eq_some.2 here, fun j below y earlier => before j below y (placeAt_eq_some.1 earlier)⟩

end

section
variable {t : Tables} (line word : Nat) (uncorrectable : Bool)

/-- Entering a detection puts one place and moves the pointer (R91, R92). -/
theorem Tables.enter_eq_set : t.enter line word uncorrectable = { t with
    suspects := t.suspects.set (t.placeFor (line / 64)) (some (t.detected line word uncorrectable))
    evictionPointer := t.pointerPast (line / 64) } := by
  unfold Tables.enter Tables.placeFor Tables.pointerPast Tables.detected
  cases place : t.suspectPlace (line / 64) with
  | some i =>
    obtain ⟨e, here, mine, before⟩ := Tables.suspectPlace_some place
    simp only [Tables.suspectOf_first here mine before, Option.map_some, Option.getD_some,
      List.modify_eq_set_getElem?, here, Option.map_eq_map]
  | none =>
    rw [Tables.suspectOf_none fun i y => Tables.suspectPlace_none (i := i) place]
    rfl

/-- While any place is free or unpinned, the place a detection takes holds no pinned entry of another frame (R93). -/
theorem Tables.placeFor_spares {frame i : Nat} {e : SuspectEntry} (pointer : t.evictionPointer < 32) (inside : i < 32)
    (unpinned : (placeAt t.suspects i).any (·.pinned) = false)
    (taken : placeAt t.suspects (t.placeFor frame) = some e) : e.frame = frame ∨ e.pinned = false := by
  unfold Tables.placeFor at taken
  cases place : t.suspectPlace frame with
  | some k =>
    obtain ⟨x, here, mine, -⟩ := Tables.suspectPlace_some place
    rw [place, Option.getD_some, placeAt_eq_some.2 here] at taken
    exact .inl (Option.some.inj taken ▸ mine)
  | none =>
    rw [place, Option.getD_none, Tables.allocation] at taken
    cases free : firstFree t.suspects with
    | some k =>
      rw [free, firstFree_some free] at taken
      cases taken
    | none =>
      have evicted := evictionPlace_unpinned pointer inside unpinned
      rw [free] at taken
      rw [taken] at evicted
      exact .inr evicted

variable (size : t.suspects.length = 32) (pointer : t.evictionPointer < 32)
include size pointer

theorem Tables.placeFor_lt (frame : Nat) : t.placeFor frame < 32 := by
  unfold Tables.placeFor
  cases place : t.suspectPlace frame with
  | some i => exact size ▸ (List.findIdx?_eq_some_iff_getElem.1 place).1
  | none => exact t.allocation_lt size pointer

/-- A detection of one frame leaves a pinned entry of another where it is (R93). -/
theorem Tables.enter_suspectOf_other {frame i : Nat} {e : SuspectEntry} (other : frame ≠ line / 64)
    (entry : t.suspectOf frame = some e) (pinned : e.pinned = true) (inside : i < 32)
    (unpinned : (placeAt t.suspects i).any (·.pinned) = false) :
    (t.enter line word uncorrectable).suspectOf frame = some e := by
  obtain ⟨k, here, before⟩ := Tables.suspectOf_place entry
  have mine := t.suspectOf_frame entry
  have notHere : k ≠ t.placeFor (line / 64) := by
    rintro rfl
    rcases Tables.placeFor_spares pointer inside unpinned here with same | free
    · exact other (mine.symm.trans same)
    · rw [pinned] at free; cases free
  have frame' := (t.enter line word uncorrectable).suspectOf_frame (t.enter_suspectOf line word uncorrectable size pointer)
  rw [Tables.enter_eq_set]
  refine Tables.suspectOf_first (i := k) (placeAt_eq_some.1 ((placeAt_set_other _ notHere).trans here)) mine
    fun j below y earlier => ?_
  by_cases place : j = t.placeFor (line / 64)
  · subst place
    rw [← placeAt_eq_some, placeAt_set_same (size ▸ Tables.placeFor_lt size pointer _)] at earlier
    rw [← Option.some.inj earlier, frame']
    exact other.symm
  · exact before j below y ((placeAt_set_other _ place).symm.trans (placeAt_eq_some.2 earlier))

end

/-! ### What the retirements leave standing in the Suspect Table (R69) -/

/-- What an entry holds beside its retire state. -/
def SuspectEntry.account (e : SuspectEntry) : Nat × Nat × Nat × Nat × Nat :=
  (e.frame, e.corrected, e.uncorrectable, e.lastLine, e.lastWord)

/-- What the Suspect Table holds beside the retire states. -/
def Tables.accounts (t : Tables) : List (Option (Nat × Nat × Nat × Nat × Nat)) × Nat :=
  (t.suspects.map (Option.map SuspectEntry.account), t.evictionPointer)

theorem Tables.setRetire_accounts (t : Tables) (frame : Nat) (st : RetireState) :
    (t.setRetire frame st).accounts = t.accounts := by
  have same : (Option.map SuspectEntry.account ∘
      Option.map fun e : SuspectEntry => if e.frame = frame then { e with retire := st } else e)
        = Option.map SuspectEntry.account := by
    funext p
    rcases p with _ | e
    · rfl
    · by_cases mine : e.frame = frame <;> simp [mine, SuspectEntry.account]
  rw [Tables.accounts, Tables.setRetire, List.map_map, same]
  rfl

theorem startFrom_accounts (l : List RetireRequest) (s : State) : (startFrom l s).tables.accounts = s.tables.accounts := by
  induction l generalizing s with
  | nil => rfl
  | cons r rest ih =>
    unfold startFrom
    split
    · dsimp only
      split
      · rw [ih, State.refuseStart_state]
        exact s.tables.setRetire_accounts r.frame .refused
      · rw [State.beginMigration_eq]
        exact s.tables.setRetire_accounts r.frame .migrating
    · rfl

/-- Whatever an offer comes to, it changes retire states alone in the Suspect Table (R69, R95). -/
theorem State.considerOffer_accounts (s : State) (frame : Nat) :
    (s.considerOffer frame).tables.accounts = s.tables.accounts := by
  unfold State.considerOffer
  split
  · rfl
  · split
    · unfold State.offerAuto
      split
      · rfl
      · split
        · rw [State.offer_tables]
        · exact (startFrom_accounts ..).trans (s.tables.setRetire_accounts frame .queued)
    · rfl

section
variable {t u : Tables} (same : u.accounts = t.accounts)
include same

/-- The frame's entry is found by what the tables hold beside the retire states. -/
theorem Tables.suspectOf_account (frame : Nat) :
    (u.suspectOf frame).map (·.account) = (t.suspectOf frame).map (·.account) := by
  have found (t : Tables) : (t.suspectOf frame).map (·.account)
      = (t.accounts.1.find? fun p => p.any fun a => a.1 == frame).join := by
    have mine : (fun p => Option.any (fun a => a.1 == frame) p) ∘ Option.map SuspectEntry.account
        = fun p => p.any fun e => e.frame == frame := by
      funext p
      cases p <;> rfl
    rw [Tables.suspectOf, Tables.accounts, List.find?_map, mine]
    rcases t.suspects.find? _ with _ | _ | e <;> rfl
  rw [found, found, same]

theorem Tables.placeAt_account (i : Nat) :
    (placeAt u.suspects i).map (·.account) = (placeAt t.suspects i).map (·.account) := by
  rw [← placeAt_map_map, ← placeAt_map_map]
  exact congrArg (placeAt · i) (congrArg Prod.fst same)

end

/-! ### A detection entered (R90) -/

/-- Place `i` alone takes what `e` holds, the pointer stands at `next`, and where R95 offers nothing the entry is `e`. -/
def State.Enters (s t : State) (frame i next : Nat) (e : SuspectEntry) : Prop :=
  (placeAt t.tables.suspects i).map (·.account) = (some e).map (·.account)
  ∧ (∀ j, j ≠ i → (placeAt t.tables.suspects j).map (·.account) = (placeAt s.tables.suspects j).map (·.account))
  ∧ t.tables.evictionPointer = next
  ∧ (s.engine.state.retires = false ∨ (s.tables.attributesOfFrame frame).autoRetire = false ∨ e.retire ≠ .none
      ∨ (e.corrected < s.engine.threshold ∧ e.uncorrectable = 0) →
    t.tables.suspects = s.tables.suspects.set i (some e))

section
variable {s : State} (line word : Nat) (uncorrectable : Bool)

theorem State.enterDetection_accounts : (s.enterDetection line word uncorrectable).tables.accounts
    = (s.tables.enter line word uncorrectable).accounts := State.considerOffer_accounts ..

theorem Tables.enter_attributesOfFrame (t : Tables) (frame : Nat) :
    (t.enter line word uncorrectable).attributesOfFrame frame = t.attributesOfFrame frame := by
  rw [Tables.attributesOfFrame, Tables.enter_regions, Tables.enter_defaults]
  rfl

variable (size : s.tables.suspects.length = 32) (pointer : s.tables.evictionPointer < 32)
include size pointer

theorem State.enterDetection_enters : s.Enters (s.enterDetection line word uncorrectable) (line / 64)
    (s.tables.placeFor (line / 64)) (s.tables.pointerPast (line / 64)) (s.tables.detected line word uncorrectable) := by
  have entered : s.tables.enter line word uncorrectable = _ := Tables.enter_eq_set ..
  have entry := s.tables.enter_suspectOf line word uncorrectable size pointer
  have stands := s.enterDetection_accounts line word uncorrectable
  refine ⟨?_, fun j other => ?_, ?_, fun fails => ?_⟩
  · rw [Tables.placeAt_account stands, entered, placeAt_set_same (size ▸ Tables.placeFor_lt size pointer _)]
  · rw [Tables.placeAt_account stands, entered, placeAt_set_other _ other]
  · exact (congrArg Prod.snd stands).trans (congrArg Tables.evictionPointer entered)
  · have nothing : s.enterDetection line word uncorrectable = s.withTables (s.tables.enter line word uncorrectable) :=
      State.considerOffer_stands entry (by
        rw [State.withTables_tables, Tables.enter_attributesOfFrame]
        exact fails)
    rw [nothing, State.withTables_tables, entered]

/-- The frame has an entry, with what the detection leaves in it (R90 to R92). -/
theorem State.enterDetection_suspectOf : ∃ e,
    (s.enterDetection line word uncorrectable).tables.suspectOf (line / 64) = some e
    ∧ e.account = (s.tables.detected line word uncorrectable).account := by
  have stands := Tables.suspectOf_account (s.enterDetection_accounts line word uncorrectable) (line / 64)
  rw [s.tables.enter_suspectOf line word uncorrectable size pointer] at stands
  exact Option.map_eq_some_iff.1 stands

end

section
variable {t : Tables} {line word : Nat} {uncorrectable : Bool}

theorem Tables.detected_of_entry {e : SuspectEntry} (entry : t.suspectOf (line / 64) = some e) :
    t.detected line word uncorrectable = e.update line word uncorrectable := by
  rw [Tables.detected, entry]
  rfl

theorem Tables.detected_of_none (absent : t.suspectOf (line / 64) = none) :
    t.detected line word uncorrectable = t.freshEntry line word uncorrectable := by
  rw [Tables.detected, absent]
  rfl

end

section
variable {t : Tables} {frame : Nat}

theorem Tables.placeFor_entry {i : Nat} (place : t.suspectPlace frame = some i) :
    t.placeFor frame = i ∧ t.pointerPast frame
      = if t.evictionPointer = i then (t.evictionPointer + 1) % 32 else t.evictionPointer := by
  rw [Tables.placeFor, Tables.pointerPast, place]
  exact ⟨rfl, rfl⟩

theorem Tables.placeFor_free {i : Nat} (absent : t.suspectOf frame = none) (free : firstFree t.suspects = some i) :
    t.placeFor frame = i ∧ t.pointerPast frame = (t.evictionPointer + 1) % 32 := by
  rw [Tables.placeFor, Tables.pointerPast, Tables.suspectPlace_eq_none absent, Tables.allocation, free]
  exact ⟨rfl, rfl⟩

theorem Tables.placeFor_evicted {k : Nat} (absent : t.suspectOf frame = none) (full : firstFree t.suspects = none)
    (chosen : evictionPlace t.suspects 32 t.evictionPointer = (t.evictionPointer + k) % 32) :
    t.placeFor frame = (t.evictionPointer + k) % 32 ∧ t.pointerPast frame = (t.evictionPointer + k + 1) % 32 := by
  rw [Tables.placeFor, Tables.pointerPast, Tables.suspectPlace_eq_none absent, Tables.allocation, full]
  exact ⟨chosen, (congrArg nextPlace chosen).trans (Nat.mod_add_mod ..)⟩

end

/-- Settles O41: the detection puts one place, by where its frame stands in the table, and the offer that may follow
changes retire states alone. -/
theorem detectionIsCounted : Obligations.DetectionIsCounted := by
  refine ⟨fun t frame => ⟨fun i e => placeAt_eq_some, SuspectEntry.pinned_iff, Tables.suspectOf_eq_none_iff,
    fun e entry => ⟨t.suspectOf_frame entry, ?_⟩⟩, fun s line word uncorrectable size pointer => ?_⟩
  · obtain ⟨i, here, -⟩ := Tables.suspectOf_place entry
    exact List.mem_of_getElem? (placeAt_eq_some.1 here)
  have entered := State.enterDetection_enters (s := s) line word uncorrectable size pointer
  intro t frame place contents enters new
  have allocated {i next : Nat} (absent : s.tables.suspectOf frame = none)
      (here : s.tables.placeFor frame = i ∧ s.tables.pointerPast frame = next) : enters i next new := by
    obtain ⟨rfl, rfl⟩ := here
    rw [Tables.detected_of_none absent] at entered
    exact entered
  refine ⟨?_, fun f e other entry pinned ⟨i, inside, unpinned⟩ => ?_, fun i old here mine before => ?_,
    fun absent => ⟨fun i inside free full => ?_, fun k near full passed stops => ?_⟩⟩
  · obtain ⟨e, entry, account⟩ := State.enterDetection_suspectOf (s := s) line word uncorrectable size pointer
    simp only [SuspectEntry.account, Prod.mk.injEq] at account
    obtain ⟨mine, corrected, lost, lastLine, lastWord⟩ := account
    refine ⟨e, entry, Tables.suspectOf_frame _ entry, ?_⟩
    rw [corrected, lost, lastLine, lastWord]
    cases known : s.tables.suspectOf (line / 64) with
    | none =>
      rw [Tables.detected_of_none known]
      exact ⟨rfl, rfl, rfl, rfl⟩
    | some old =>
      rw [Tables.detected_of_entry known]
      exact ⟨rfl, rfl, rfl, rfl⟩
  · have unpinned' : (placeAt s.tables.suspects i).any (·.pinned) = false := by
      revert unpinned
      cases placeAt s.tables.suspects i <;> simp
    have stands := Tables.suspectOf_account (s.enterDetection_accounts line word uncorrectable) f
    rw [Tables.enter_suspectOf_other line word uncorrectable size pointer other entry pinned inside unpinned'] at stands
    obtain ⟨x, found, account⟩ := Option.map_eq_some_iff.1 stands
    simp only [SuspectEntry.account, Prod.mk.injEq] at account
    obtain ⟨-, corrected, lost, -⟩ := account
    rw [found, Option.map_some, corrected, lost]
  · obtain ⟨rfl, past⟩ := Tables.placeFor_entry (Tables.suspectPlace_eq_some here mine before)
    rw [← past]
    have known := Tables.suspectOf_first (placeAt_eq_some.1 here) mine fun j below y earlier =>
      before j below y (placeAt_eq_some.2 earlier)
    rw [Tables.detected_of_entry known] at entered
    exact entered
  · exact allocated absent (Tables.placeFor_free absent (firstFree_eq_some (size.symm ▸ inside) free full))
  · exact allocated absent (Tables.placeFor_evicted absent (firstFree_eq_none (size.symm ▸ full))
      (evictionPlace_eq near pointer passed stops))

end Sys2Proof.Machine
end

section
/-!
A halt and the Patrol Unit (R100 to R104, R106, R122, R123, R140): the requests that a halt withdraws, the skip to the next
line with PATROL, the end of a pass and the end of a patrol tenure. Settled here: O26, O44, O45.
-/

namespace Sys2Proof.Machine

/-! ### Halt (R106, R122, R123, R140) -/

theorem EngineState.posts_iff (e : EngineState) : e.posts = true ↔ e = .running ∨ e = .quiescing ∨ e = .quiesced := by
  cases e <;> simp [EngineState.posts]

theorem State.patrolActive_iff (s : State) :
    s.patrolActive = true ↔ s.patrol.enabled = true ∧ s.engine.state.posts = true := by
  simp [State.patrolActive]

/-- A withdrawn patrol is IDLE unless its tenure is in progress (R106). -/
theorem Patrol.withdraw_eq (p : Patrol) : p.withdraw = { p with phase := match p.phase with
    | .waiting _ _ => .idle
    | .idle => .idle
    | .inTenure line repair => .inTenure line repair } := by
  rcases p with ⟨_, _, _, _ | _ | _, _⟩ <;> rfl

/-- At a halt a slot is HELD unless its tenure is in progress (R140). -/
theorem Slot.atHalt_eq (sl : Slot) :
    sl.atHalt = { sl with phase := if sl.phase = .inTenure then .inTenure else .held } := by
  rcases sl with ⟨_, _, _, _, _, _, _, _ | _ | _, _⟩ <;> rfl

/-- A state in HALTED with its cause latched, its patrol put and its slots changed. -/
def State.halted (s : State) (cause : HaltCause) (patrol : Patrol) (f : Slot → Slot) : State :=
  { s with
    engine := { s.engine with state := .halted, haltCause := cause }
    patrol
    admission := { s.admission with slots := s.admission.slots.map (Option.map f) } }

theorem State.halt_of_posts {s : State} (cause : HaltCause) (posts : s.engine.state.posts = true) :
    s.halt cause = s.halted cause s.patrol.withdraw Slot.atHalt := if_pos posts

theorem State.halt_of_not_posts {s : State} (cause : HaltCause) (stopped : s.engine.state.posts = false) :
    s.halt cause = s := if_neg (by simp [stopped])

/-- In HALTED the Ring Unit has nothing ready (R123). -/
theorem State.ready_ring_halted {s : State} (halted : s.engine.state = .halted) : s.ready .ring = false := by
  simp [State.ready, State.ringWork, halted]

/-- In HALTED the patrol is inactive (R106). -/
theorem State.patrolActive_halted {s : State} (halted : s.engine.state = .halted) : s.patrolActive = false := by
  simp [State.patrolActive, halted, EngineState.posts]

/-- Settles O26: what a halt makes of the patrol and of each slot, by their phases. -/
theorem haltHoldsSlotsAndPatrol : Obligations.HaltHoldsSlotsAndPatrol := by
  refine ⟨EngineState.posts_iff, State.patrolActive_iff, fun cause s => ⟨fun posts => ?_, State.halt_of_not_posts cause⟩⟩
  have halts := State.halt_of_posts cause posts
  have halted : (s.halt cause).engine.state = .halted := congrArg (·.engine.state) halts
  exact ⟨halts.trans (congrArg₂ (s.halted cause) s.patrol.withdraw_eq (funext Slot.atHalt_eq)),
    State.ready_ring_halted halted, State.patrolActive_halted halted⟩

/-! ### The edges between regions (R43, R44) -/

/-- A line lies at or above an address exactly when it is not below the first such line. -/
theorem lineAtOrAbove_le_iff (address line : Nat) : lineAtOrAbove address ≤ line ↔ address ≤ line * 64 := by
  unfold lineAtOrAbove
  omega

/-- Between two lines without an edge of the region between them, the region covers both or neither. -/
theorem Region.covers_congr {r : Region} {a b : Nat} (below : a ≤ b) (noEdge : ∀ e ∈ r.edges, a < e → b < e) :
    r.covers (a * 64) = r.covers (b * 64) := by
  have first := noEdge (lineAtOrAbove r.base) (by simp [Region.edges])
  have last := noEdge (lineAtOrAbove (r.base + 2 ^ r.exponent)) (by simp [Region.edges])
  have first_le := lineAtOrAbove_le_iff r.base
  have last_le := lineAtOrAbove_le_iff (r.base + 2 ^ r.exponent)
  rw [Bool.eq_iff_iff, Region.covers_iff, Region.covers_iff]
  have := first_le a
  have := first_le b
  have := last_le a
  have := last_le b
  omega

section
variable {t : Tables} {a b : Nat}

theorem Tables.edges_of_region {r : Region} (inside : some r ∈ t.regions) {e : Nat} (edge : e ∈ r.edges) : e ∈ t.edges :=
  List.mem_flatMap.2 ⟨some r, inside, by simpa using edge⟩

/-- Two lines without an edge between them have the same attributes (log 20). -/
theorem Tables.attributesOfLine_congr (below : a ≤ b) (noEdge : ∀ e ∈ t.edges, a < e → b < e) :
    t.attributesOfLine a = t.attributesOfLine b :=
  lookupFrom_congr _ _ fun _ inside =>
    Region.covers_congr below fun e edge => noEdge e (Tables.edges_of_region inside edge)

end

section
variable {edges : List Nat} {line e : Nat}

/-- The next edge is the least one above the line. -/
theorem nextEdge_some (next : nextEdge edges line = some e) :
    e ∈ edges ∧ line < e ∧ ∀ x ∈ edges, line < x → e ≤ x := by
  obtain ⟨member, least⟩ := List.min?_eq_some_iff.1 next
  simp only [List.mem_filter, decide_eq_true_eq] at member least
  exact ⟨member.1, member.2, fun x inside above => least x ⟨inside, above⟩⟩

theorem nextEdge_none (next : nextEdge edges line = none) : ∀ x ∈ edges, ¬line < x := by
  have empty : edges.filter (fun e => decide (line < e)) = [] := List.min?_eq_none_iff.1 next
  simpa using List.filter_eq_nil_iff.1 empty

end

/-! ### The skip (R102) -/

/-- No line from `first` up to, not including, `last` has PATROL. -/
def Tables.NoPatrol (t : Tables) (first last : Nat) : Prop :=
  ∀ l, first ≤ l → l < last → (t.attributesOfLine l).patrol = false

section
variable {t : Tables} {a b c : Nat}

theorem Tables.NoPatrol.append (low : t.NoPatrol a b) (high : t.NoPatrol b c) : t.NoPatrol a c := fun l from_a below_c =>
  (Nat.lt_or_ge l b).elim (low l from_a) fun from_b => high l from_b below_c

/-- A line without PATROL speaks for every line before the next edge. -/
theorem Tables.noPatrol_of_edges (off : (t.attributesOfLine a).patrol = false) (noEdge : ∀ x ∈ t.edges, a < x → b ≤ x) :
    t.NoPatrol a b := fun _ from_a below_b => by
  rw [← Tables.attributesOfLine_congr from_a fun x inside above => Nat.lt_of_lt_of_le below_b (noEdge x inside above)]
  exact off

end

section
variable (t : Tables) (hostLines : Nat)

/-- What the skip from a line may answer: the first line with PATROL in host memory, or that there is none. -/
def Tables.SkipsTo (line : Nat) : Option Nat → Prop
  | some found => line ≤ found ∧ found < hostLines ∧ (t.attributesOfLine found).patrol = true ∧ t.NoPatrol line found
  | none => t.NoPatrol line hostLines

variable {t hostLines}

theorem Tables.SkipsTo.from_edge {line e : Nat} {answer : Option Nat} (above : line < e) (off : t.NoPatrol line e)
    (skips : t.SkipsTo hostLines e answer) : t.SkipsTo hostLines line answer := by
  cases answer with
  | none => exact off.append skips
  | some found =>
    obtain ⟨from_e, inHost, patrols, first⟩ := skips
    exact ⟨Nat.le_of_lt (Nat.lt_of_lt_of_le above from_e), inHost, patrols, off.append first⟩

/-- The answer of a skip is the only one there is. -/
theorem Tables.SkipsTo.unique {line : Nat} {x y : Option Nat} (hx : t.SkipsTo hostLines line x)
    (hy : t.SkipsTo hostLines line y) : x = y := by
  have apart {f : Nat} {last : Nat} (patrols : (t.attributesOfLine f).patrol = true) (from_line : line ≤ f)
      (off : t.NoPatrol line last) : last ≤ f := by
    by_contra below
    rw [off f from_line (Nat.lt_of_not_le below)] at patrols
    cases patrols
  cases x with
  | none =>
    cases y with
    | none => rfl
    | some g => exact absurd (apart hy.2.2.1 hy.1 hx) (Nat.not_le_of_lt hy.2.1)
  | some f =>
    obtain ⟨from_f, inHost, patrols, first⟩ := hx
    cases y with
    | none => exact absurd (apart patrols from_f hy) (Nat.not_le_of_lt inHost)
    | some g =>
      obtain ⟨from_g, -, patrols', first'⟩ := hy
      exact congrArg some (Nat.le_antisymm (apart patrols' from_g first) (apart patrols from_f first'))

/-- An edge passed is one edge fewer above the line. -/
theorem filter_above_lt {edges : List Nat} {line e : Nat} (inside : e ∈ edges) (above : line < e) :
    (edges.filter (fun x => decide (e < x))).length < (edges.filter (fun x => decide (line < x))).length := by
  have same : (edges.filter (fun x => decide (line < x))).filter (fun x => decide (e < x))
      = edges.filter (fun x => decide (e < x)) := by
    rw [List.filter_filter]
    refine List.filter_congr fun x _ => ?_
    by_cases beyond : e < x
    · simp [beyond, Nat.lt_trans above beyond]
    · simp [beyond]
  rw [← same]
  exact List.length_filter_lt_length_iff_exists.2 ⟨e, by simp [inside, above], by simp⟩

/-- With more moves than edges above the line, the skip finds what it looks for (R102). -/
theorem Tables.skip_skipsTo (n : Nat) {line : Nat} (enough : (t.edges.filter (fun x => decide (line < x))).length < n) :
    t.SkipsTo hostLines line (t.skip hostLines n line) := by
  induction n generalizing line with
  | zero => exact absurd enough (Nat.not_lt_zero _)
  | succ n ih =>
    unfold Tables.skip
    split
    · rename_i beyond
      exact fun l from_line inHost => absurd inHost (Nat.not_lt_of_le (Nat.le_trans beyond from_line))
    · rename_i inHost
      split
      · rename_i patrols
        exact ⟨Nat.le_refl line, Nat.lt_of_not_le inHost, patrols, fun l from_line below =>
          absurd below (Nat.not_lt_of_le from_line)⟩
      · rename_i patrols
        have off : (t.attributesOfLine line).patrol = false := by simpa using patrols
        split
        · rename_i e next
          obtain ⟨inside, above, least⟩ := nextEdge_some next
          exact (ih (Nat.lt_of_lt_of_le (filter_above_lt inside above) (Nat.le_of_lt_succ enough))).from_edge above
            (Tables.noPatrol_of_edges off least)
        · rename_i next
          exact Tables.noPatrol_of_edges off fun x inside above => absurd above (nextEdge_none next x inside)

end

section
variable {s : State}

/-- The patrol's next line is the first one with PATROL from the cursor on (R102). -/
theorem State.nextPatrolLine_skipsTo : s.tables.SkipsTo s.straps.hostLines s.patrol.cursor s.nextPatrolLine :=
  Tables.skip_skipsTo _ (Nat.lt_succ_of_le (List.length_filter_le ..))

/-! ### Expiry and the end of a pass (R102, R104) -/

theorem State.expire_line {line : Nat} (skips : s.tables.SkipsTo s.straps.hostLines s.patrol.cursor (some line)) :
    s.expire = s.withPatrol { s.patrol with
      cursor := line, phase := .waiting line (s.tables.attributesOfLine line).repair } := by
  rw [State.expire, State.nextPatrolLine_skipsTo.unique skips]

theorem State.expire_pass (skips : s.tables.SkipsTo s.straps.hostLines s.patrol.cursor none) : s.expire = s.endPass := by
  rw [State.expire, State.nextPatrolLine_skipsTo.unique skips]

/-- A pass ends with its event, the decay and the cursor at 0 (R104). -/
theorem State.endPass_eq (s : State) : s.endPass = ((s.offer { kind := .patrolPass, source := .patrol }).withTables
    s.tables.decay).withPatrol { s.patrol with cursor := 0 } := by
  simp only [State.endPass, State.offer_tables, State.withTables_patrol, (s.offer_accounted _).patrol]

theorem exec_patrolExpiry_acts (live : s.resetAsserted = false) (active : s.patrolActive = true)
    (idle : s.patrol.phase = .idle) : exec .patrolExpiry s = .next s.expire.conclude :=
  congrArg Host.Outcome.next (if_pos ⟨live, active, idle⟩)

theorem exec_patrolExpiry_absorbed (absorbed : ¬(s.patrolActive = true ∧ s.patrol.phase = .idle)) :
    exec .patrolExpiry s = .next s :=
  congrArg Host.Outcome.next (if_neg fun acts => absorbed acts.2)

end

/-- Settles O44: the skip answers the one line, or that there is none. -/
theorem patrolExpiryFindsTheNextLine : Obligations.PatrolExpiryFindsTheNextLine := by
  intro s live
  refine ⟨fun enabled posts idle => ?_, fun busy => exec_patrolExpiry_absorbed fun acts => busy acts.2, fun inactive =>
    exec_patrolExpiry_absorbed fun acts => ?_⟩
  · have run := exec_patrolExpiry_acts live (s.patrolActive_iff.2 ⟨enabled, posts⟩) idle
    refine ⟨fun line fromCursor inHost patrols first => ?_, fun off => ?_⟩
    · rw [run, State.expire_line ⟨fromCursor, inHost, patrols, first⟩]
    · rw [run, State.expire_pass off, State.endPass_eq]
  · obtain ⟨enabled, posts⟩ := s.patrolActive_iff.1 acts.1
    rcases inactive with disabled | stopped
    · rw [disabled] at enabled; cases enabled
    · rw [stopped] at posts; cases posts

/-! ### The end of a patrol tenure (R103) -/

theorem State.withPatrol_offer (s : State) (e : EventRecord) (x : Patrol) :
    (s.withPatrol x).offer e = (s.offer e).withPatrol x :=
  s.offer_comm e (f := (State.withPatrol · x)) rfl rfl fun _ => rfl

/-- PATROL_TENURE_END hands on the detections, and the patrol moves on (R103). -/
theorem exec_patrolTenureEnd {s : State} {line : Nat} {reports : List WordReport} (live : s.resetAsserted = false)
    (tenure : s.arbiter.tenure = some ⟨.patrolStep, line, reports, false⟩) : exec .patrolTenureEnd s
      = .next ((reports.foldl (handedOn .patrol none line) s.freeChannel).patrolMovesOn line).conclude := by
  simp only [exec, execPatrolTenureEnd, State.endTenure,
    State.ending_of_tenure (f := (· == .patrolStep)) live tenure rfl, State.takePatrolTenure, State.handWords_eq]
  rfl

section
variable {s : State} {line : Nat}

theorem State.patrolMovesOn_disowned (disowned : s.patrol.disowned = true) :
    s.patrolMovesOn line = s.withPatrol { s.patrol with phase := .idle, disowned := false } := if_pos disowned

variable (owned : s.patrol.disowned = false)
include owned

theorem State.patrolMovesOn_next (inHost : line + 1 < s.straps.hostLines) :
    s.patrolMovesOn line = s.withPatrol { s.patrol with phase := .idle, cursor := line + 1 } := by
  rw [State.patrolMovesOn, owned, if_neg Bool.false_ne_true, if_pos inHost]

theorem State.patrolMovesOn_last (last : s.straps.hostLines ≤ line + 1) : s.patrolMovesOn line
    = ((s.offer { kind := .patrolPass, source := .patrol }).withTables s.tables.decay).withPatrol
        { s.patrol with phase := .idle, cursor := 0 } := by
  rw [State.patrolMovesOn, owned, if_neg Bool.false_ne_true, if_neg (Nat.not_lt_of_le last), State.endPass_eq,
    State.withPatrol_offer]
  rfl

end

/-- Settles O45: the hand-on leaves the patrol and the straps alone, and the patrol then moves on by its mark and its line. -/
theorem patrolTenureEndMovesOn : Obligations.PatrolTenureEndMovesOn := by
  intro s line reports live tenure free u
  have handed : Accounted free u := handedOn_accounted .patrol none line reports free
  have patrol : u.patrol = s.patrol := handed.patrol
  have run : exec .patrolTenureEnd s = .next (u.patrolMovesOn line).conclude := exec_patrolTenureEnd live tenure
  have straps : u.straps = s.straps := handed.straps
  rw [← patrol, ← straps, run]
  refine ⟨handed, fun disowned => ?_, fun owned inHost => ?_, fun owned last => ?_⟩
  · rw [State.patrolMovesOn_disowned disowned]
  · rw [State.patrolMovesOn_next owned inHost]
  · rw [State.patrolMovesOn_last owned last]

end Sys2Proof.Machine
end

section
/-!
ATTN (R126): a happening ends with its level settled anew, or leaves it and its inputs as they stood. Settled here: O29.
-/

namespace Sys2Proof.Machine

theorem State.attnFollows_iff (s : State) : s.AttnFollows ↔ (s.attn = true ↔ s.attnLevel = true) := Bool.eq_iff_iff

/-- In device reset ATTN is low, and the engine is OFF with its enables clear (R126, R127). -/
theorem State.attnFollows_reset (m : Memory) (queue : List Instr) :
    ((State.reset.withMemory m).withPending queue).AttnFollows := rfl

section
variable {s : State} (follows : s.AttnFollows)
include follows

/-! ### Host requests -/

/-- No answer of the port is an input of ATTN. -/
theorem State.AttnFollows.respond (code : ResponseCode) (words : List (Nat × DataWord)) :
    (s.respond code words).AttnFollows := follows

theorem State.AttnFollows.takeRead (line : Nat) (mask : BitVec 8) : (s.takeRead line mask).AttnFollows := by
  unfold State.takeRead
  repeat' split
  · exact follows.respond ..
  · exact follows.respond ..
  · exact State.conclude_attn _

theorem State.AttnFollows.takeWrite (line : Nat) (mask : BitVec 64) (data : BitVec 512) :
    (s.takeWrite line mask data).AttnFollows := by
  unfold State.takeWrite
  repeat' split
  · exact follows.respond ..
  · exact follows.respond ..
  · exact State.conclude_attn _

/-- ANCHOR is no input of ATTN. -/
theorem State.AttnFollows.acceptAnchorWrite (v : BitVec 32) : (s.acceptAnchorWrite v).AttnFollows := follows

/-- Fault Capture is no input of ATTN. -/
theorem State.AttnFollows.acceptFaultInfo (v : BitVec 32) : (s.acceptFaultInfo v).AttnFollows := by
  unfold State.acceptFaultInfo
  split
  · exact follows
  · exact follows.respond ..

theorem State.AttnFollows.writeRegister (offset : Nat) (v : BitVec 32) : (s.writeRegister offset v).AttnFollows := by
  unfold State.writeRegister
  repeat' split
  · exact State.conclude_attn _
  · exact follows.acceptAnchorWrite v
  · exact State.conclude_attn _
  · exact State.conclude_attn _
  · exact State.conclude_attn _
  · exact follows.acceptFaultInfo v
  · exact follows.respond ..

/-! ### One command -/

variable {t : State}

/-- A host request: the port takes it, or nothing happens (R1, R28). -/
theorem State.AttnFollows.hostRequest {f : State → State} (run : s.hostRequest f = .next t)
    (taken : (f s).AttnFollows) : t.AttnFollows := by
  cases run
  split
  · exact taken
  · exact follows

/-- The end of a tenure concludes its happening, whatever is taken of the reports (R17, R22). -/
theorem State.AttnFollows.endTenure {f : Work → Bool} {take : Tenure → State → State}
    (run : s.endTenure f take = .next t) : t.AttnFollows := by
  unfold State.endTenure at run
  split at run
  · cases run
    split <;> exact State.conclude_attn _
  · cases run
    exact follows

/-- A happening that concludes, or does not come (log 5). -/
theorem State.AttnFollows.concludesIf {c : Prop} [Decidable c] {u : State}
    (run : Host.Outcome.next (if c then u.conclude else s) = (.next t : Host.Outcome State Fault Refusal)) :
    t.AttnFollows := by
  cases run
  split
  · exact State.conclude_attn _
  · exact follows

/-- Every command that goes on leaves ATTN at its level (R126). -/
theorem State.AttnFollows.of_exec {c : Instr} (run : exec c s = .next t) : t.AttnFollows := by
  cases c with
  | deviceReset powerOn =>
    cases run
    exact State.attnFollows_reset ..
  | deviceResetRelease size spare =>
    cases run
    split <;> exact follows
  | disturbance frame line word change =>
    simp only [exec, execDisturbance] at run
    split at run
    · cases run
      exact follows
    · cases run
  | hostRead line mask => exact follows.hostRequest (f := (·.takeRead line.toNat mask)) run (follows.takeRead ..)
  | hostWrite line mask data =>
    exact follows.hostRequest (f := (·.takeWrite line.toNat mask data)) run (follows.takeWrite ..)
  | start _ | quiesce _ | engineReset _ | enableBits _ | sqTail _ | cqHead _ | eqHead _ =>
    simp only [exec, execStart, execQuiesce, execEngineReset, execEnableBits, execSqTail, execCqHead,
      execEqHead] at run
    exact follows.hostRequest run (State.conclude_attn _)
  | anchor v => exact follows.hostRequest (f := (·.acceptAnchorWrite v)) run (follows.acceptAnchorWrite v)
  | faultInfoClear v =>
    exact follows.hostRequest (f := (·.acceptFaultInfo (v ||| 0x80000000#32))) run (follows.acceptFaultInfo _)
  | registerWriteOther offset v =>
    exact follows.hostRequest (f := (·.writeRegister offset v)) run (follows.writeRegister offset v)
  | hostReadEnd | drainEnd =>
    simp only [exec, execHostReadEnd, execDrainEnd] at run
    split at run <;> cases run
    · exact State.conclude_attn _
    · exact follows
  | anchorReadEnd | fetchEnd | ringPostEnd | copyStepEnd | slotTenureEnd | patrolTenureEnd =>
    simp only [exec, execAnchorReadEnd, execFetchEnd, execRingPostEnd, execCopyStepEnd, execSlotTenureEnd,
      execPatrolTenureEnd] at run
    exact follows.endTenure run
  | patrolExpiry => exact follows.concludesIf run
  | scrub _ _ _ _ | verify _ _ _ | fill _ _ _ _ | copy _ _ _ _ | retire _ _ | install _ _ _ | withdrawSpare _ _
  | query _ _ | clearSuspect _ _ | setRegion _ _ _ _ _ _ | setPatrol _ _ _ _ | fence _ | abort _ _ =>
    exact follows.concludesIf run

end

/-- Settles O29: the front command leaves ATTN at its level, and the queue of commands is no input of it. -/
theorem stepsKeepAttnLevel : Obligations.StepsKeepAttnLevel := by
  intro s t before stepped
  rw [← State.attnLevel_iff, ← State.attnFollows_iff] at before ⊢
  unfold step at stepped
  split at stepped
  · cases stepped
    exact before
  · rename_i c rest _
    have taken : (s.withPending rest).AttnFollows := before
    exact taken.of_exec stepped

end Sys2Proof.Machine
end

section
/-!
CTRL and the index registers taking effect (R109 to R122, R182). Settled here: O23 and O25.
-/

namespace Sys2Proof.Machine

/-! ### CTRL from an empty buffer (R41, R109) -/

/-- A posted register write that one of its five rows presents takes effect at once from an empty buffer (R41; log 12). -/
theorem exec_delivers {c : Instr} {target : PostedRegister} {v : BitVec 32} {s : State} (takes : s.hostTakes = true)
    (empty : s.port.buffer = [])
    (row : c = .start (v ||| 1#32) ∧ target = .ctrl ∧ v.getLsbD 0 = true
      ∨ c = .quiesce (v ||| 2#32) ∧ target = .ctrl ∧ v.getLsbD 1 = true
      ∨ c = .engineReset (v ||| 4#32) ∧ target = .ctrl ∧ v.getLsbD 2 = true
      ∨ c = .enableBits v ∧ target = .ctrl ∨ c = .sqTail v ∧ target = .sqTail) :
    exec c s = .next ((s.respond .accepted []).deliver target v).conclude :=
  (exec_postsRegister takes row).trans (congrArg _ (State.postRegister_of_empty _ _ _ empty))

section
variable {s : State} {v : BitVec 32} (takes : s.hostTakes = true) (empty : s.port.buffer = [])
include takes empty

theorem exec_start_delivers (start : v.getLsbD 0 = true) :
    exec (.start v) s = .next ((s.respond .accepted []).deliver .ctrl v).conclude := by
  have value : v ||| 1#32 = v := or_twoPow_of_getLsbD v 1#32 0 rfl start
  exact exec_delivers takes empty (.inl ⟨by rw [value], rfl, start⟩)

theorem exec_quiesce_delivers (quiesce : v.getLsbD 1 = true) :
    exec (.quiesce v) s = .next ((s.respond .accepted []).deliver .ctrl v).conclude := by
  have value : v ||| 2#32 = v := or_twoPow_of_getLsbD v 2#32 1 rfl quiesce
  exact exec_delivers takes empty (.inr (.inl ⟨by rw [value], rfl, quiesce⟩))

theorem exec_enableBits_delivers :
    exec (.enableBits v) s = .next ((s.respond .accepted []).deliver .ctrl v).conclude :=
  exec_delivers takes empty (.inr (.inr (.inr (.inl ⟨rfl, rfl⟩))))

theorem exec_sqTail_delivers :
    exec (.sqTail v) s = .next ((s.respond .accepted []).deliver .sqTail v).conclude :=
  exec_delivers takes empty (.inr (.inr (.inr (.inr ⟨rfl, rfl⟩))))

end

/-- Settles O23: the enables are taken, and then the engine state says which action bit acts. -/
theorem ctrlActsByEngineState : Obligations.CtrlActsByEngineState := by
  intro v s takes empty u
  let t := s.respond .accepted []
  refine ⟨fun noStart noQuiesce noReset => ?_, fun start noReset off inHost => ?_, fun start noReset off beyond => ?_,
    fun start noReset quiesced => ?_, fun start noQuiesce noReset ignoring => ?_, fun quiesce noReset runs => ?_,
    fun noStart quiesce noReset ignoring => ?_⟩
  · rw [exec_enableBits_delivers takes empty, State.deliver_ctrl_enables (t := t) noReset (nomatch noStart.symm.trans ·)
      (nomatch noQuiesce.symm.trans ·)]
    rfl
  · rw [exec_start_delivers takes empty start, State.deliver_ctrl_start (t := t) noReset start (.inl off),
      State.startAction_off (s := t.withEngine (t.engine.enabling v)) off inHost]
    rfl
  · rw [exec_start_delivers takes empty start, State.deliver_ctrl_start (t := t) noReset start (.inl off),
      State.startAction_off_beyond (s := t.withEngine (t.engine.enabling v)) off beyond]
    rfl
  · rw [exec_start_delivers takes empty start, State.deliver_ctrl_start (t := t) noReset start (.inr quiesced),
      State.startAction_quiesced (s := t.withEngine (t.engine.enabling v)) quiesced]
    rfl
  · have noStart : s.engine.state ≠ .off ∧ s.engine.state ≠ .quiesced := by
      rcases ignoring with state | state | state | state <;> simp [state]
    rw [exec_start_delivers takes empty start,
      State.deliver_ctrl_enables (t := t) noReset (fun _ => noStart) (nomatch noQuiesce.symm.trans ·)]
    rfl
  · rw [exec_quiesce_delivers takes empty quiesce, State.deliver_ctrl_quiesce (t := t) noReset quiesce runs,
      State.quiesceAction_running (s := t.withEngine (t.engine.enabling v)) runs]
    rfl
  · rw [exec_quiesce_delivers takes empty quiesce,
      State.deliver_ctrl_enables (t := t) noReset (nomatch noStart.symm.trans ·) (fun _ => ignoring)]
    rfl

/-! ### Distances round a ring (R117, R120) -/

/-- The distance of a ring is the difference modulo N (00_scope.md, Conventions). -/
theorem ringDistance_eq_emod {n : Nat} (x y : Nat) (entries : 0 < n) :
    (ringDistance n x y : Int) = ((x : Int) - y) % n := by
  have below : y % n ≤ x % n + n := (Nat.mod_lt y entries).le.trans (Nat.le_add_left ..)
  rw [ringDistance, Int.natCast_mod, Nat.cast_sub below, Nat.cast_add, Int.natCast_mod, Int.natCast_mod,
    add_sub_right_comm, Int.add_emod_right, ← Int.sub_emod]

/-- A head write is legal as R120 says it: below N, and no further from the old head than the producer, modulo N. -/
theorem headLegal_iff (r : Ring) (producer old new : Nat) : headLegal r producer old new = true ↔
    new < 2 ^ r.exponent
      ∧ ((new : Int) - old) % (2 ^ r.exponent : Int) ≤ ((producer : Int) - old) % (2 ^ r.exponent : Int) := by
  have distance (x : Nat) : (ringDistance r.entries x old : Int) = ((x : Int) - old) % (2 ^ r.exponent : Int) := by
    rw [Ring.entries, ringDistance_eq_emod x old (Nat.two_pow_pos _), Nat.cast_pow, Nat.cast_ofNat]
  rw [headLegal, Bool.and_eq_true, decide_eq_true_iff, decide_eq_true_iff, ← distance, ← distance, Int.ofNat_le]
  rfl

/-! ### The heads (R120 to R122) -/

section
variable {t : State} {v : BitVec 16} {r : Rings}

section
variable (posts : t.engine.state.posts = true) (rings : t.engine.rings = some r)
include posts rings

theorem State.writeCqHead_legal (legal : headLegal r.cq r.cqProducer t.engine.cqHead.toNat v.toNat = true) :
    t.writeCqHead v = t.withEngine { t.engine with cqHead := v } := by
  rw [State.writeCqHead, posts, rings]
  exact if_pos legal

theorem State.writeCqHead_illegal (illegal : ¬ headLegal r.cq r.cqProducer t.engine.cqHead.toNat v.toNat = true) :
    t.writeCqHead v = t.halt .badCqHead := by
  rw [State.writeCqHead, posts, rings]
  exact if_neg illegal

theorem State.writeEqHead_legal (legal : headLegal r.eq r.eqProducer t.engine.eqHead.toNat v.toNat = true) :
    t.writeEqHead v = t.withEngine { t.engine with eqHead := v } := by
  rw [State.writeEqHead, posts, rings]
  exact if_pos legal

theorem State.writeEqHead_illegal (illegal : ¬ headLegal r.eq r.eqProducer t.engine.eqHead.toNat v.toNat = true) :
    t.writeEqHead v = t.halt .badEqHead := by
  rw [State.writeEqHead, posts, rings]
  exact if_neg illegal

end

/-- While the rings do not run the heads are stored unchecked. -/
theorem State.writeHead_unchecked (stopped : t.engine.state.posts = false) :
    t.writeCqHead v = t.withEngine { t.engine with cqHead := v }
      ∧ t.writeEqHead v = t.withEngine { t.engine with eqHead := v } := by
  rw [State.writeCqHead, State.writeEqHead, stopped]
  exact ⟨rfl, rfl⟩

end

/-- A head register is answered and takes the low 16 bits at once (R40, R182). -/
theorem exec_headWrite {s : State} (v : BitVec 32) (takes : s.hostTakes = true) :
    exec (.cqHead v) s = .next ((s.respond .accepted []).writeCqHead (v.setWidth 16)).conclude
      ∧ exec (.eqHead v) s = .next ((s.respond .accepted []).writeEqHead (v.setWidth 16)).conclude := by
  rw [exec, exec, execCqHead, execEqHead, State.hostRequest_taken _ takes, State.hostRequest_taken _ takes,
    BitVec.setWidth_eq_extractLsb' (by decide)]
  exact ⟨rfl, rfl⟩

/-- Settles O25: the tail is judged against N, each head against its producer, and none while the rings do not run. -/
theorem indexWritesAreJudgedAgainstTheRings : Obligations.IndexWritesAreJudgedAgainstTheRings := by
  constructor
  · intro v s takes empty u
    have answered : s.respond .accepted [] = u := rfl
    rw [exec_sqTail_delivers takes empty, answered]
    refine ⟨fun r posts rings below => ?_, fun r posts rings beyond => ?_, fun stopped => ?_⟩
    · rw [State.deliver_sqTail_legal (t := u) posts rings below]
      rfl
    · rw [State.deliver_sqTail_illegal (t := u) posts rings beyond]
    · rw [State.deliver_sqTail_unchecked (t := u) stopped]
      rfl
  · intro v s takes u new
    obtain ⟨cq, eq⟩ := exec_headWrite v takes
    have value : (v.setWidth 16).toNat = new := BitVec.toNat_setWidth ..
    have answered : s.respond .accepted [] = u := rfl
    rw [cq, eq, answered]
    refine ⟨fun r posts rings => ?_, fun stopped => ?_⟩
    · simp only [← headLegal_iff, ← value]
      refine ⟨fun legal => ?_, fun illegal => ?_, fun legal => ?_, fun illegal => ?_⟩
      · rw [State.writeCqHead_legal (t := u) posts rings legal]
        rfl
      · rw [State.writeCqHead_illegal (t := u) posts rings illegal]
      · rw [State.writeEqHead_legal (t := u) posts rings legal]
        rfl
      · rw [State.writeEqHead_illegal (t := u) posts rings illegal]
    · obtain ⟨cqStored, eqStored⟩ := State.writeHead_unchecked (t := u) (v := v.setWidth 16) stopped
      rw [cqStored, eqStored]
      exact ⟨rfl, rfl⟩

end Sys2Proof.Machine
end

section
/-!
The anchor (R112 to R114, R178): its checks, and what the end of its read makes of the engine. Settled here: O30 and O31.
-/

namespace Sys2Proof.Machine

/-! ### The anchor's checks (R113) -/

section
variable (a : AnchorRecord)

/-- Check 2: each size exponent in its range. -/
theorem AnchorRecord.sizesOk_iff : a.sizesOk = true ↔ (4 ≤ a.sq.exponent ∧ a.sq.exponent ≤ 12)
    ∧ (4 ≤ a.cq.exponent ∧ a.cq.exponent ≤ 12) ∧ (4 ≤ a.eq.exponent ∧ a.eq.exponent ≤ 10) := by
  simp only [AnchorRecord.sizesOk, Bool.and_eq_true, decide_eq_true_eq, and_assoc]

theorem Ring.placed_iff (r : Ring) (recordSize hostFrames : Nat) : r.placed recordSize hostFrames = true ↔
    4096 ∣ r.base ∧ r.base + 2 ^ r.exponent * recordSize ≤ hostFrames * 4096 := by
  simp only [Ring.placed, Bool.and_eq_true, beq_iff_eq, decide_eq_true_eq, Nat.dvd_iff_mod_eq_zero]
  rfl

/-- Byte b lies in the ring. -/
def Ring.Spans (r : Ring) (recordSize b : Nat) : Prop := r.base ≤ b ∧ b < r.base + 2 ^ r.exponent * recordSize

/-- Two rings' extents do not meet exactly when no byte lies in both. -/
theorem Ring.extents_apart_iff (r q : Ring) (m n : Nat) :
    (!rangesMeet (r.extent m) (q.extent n)) = true ↔ ∀ b, ¬(r.Spans m b ∧ q.Spans n b) := by
  rw [Bool.not_eq_true', ← Bool.not_eq_true, rangesMeet_iff, not_exists]
  rfl

/-- Check 3: alignment, extent, and no byte in two rings. -/
theorem AnchorRecord.placementOk_iff (hostFrames : Nat) : a.placementOk hostFrames = true ↔
    (4096 ∣ a.sq.base ∧ 4096 ∣ a.cq.base ∧ 4096 ∣ a.eq.base)
      ∧ a.sq.base + 2 ^ a.sq.exponent * 64 ≤ hostFrames * 4096
      ∧ a.cq.base + 2 ^ a.cq.exponent * 16 ≤ hostFrames * 4096
      ∧ a.eq.base + 2 ^ a.eq.exponent * 32 ≤ hostFrames * 4096
      ∧ (∀ b, ¬(a.sq.Spans 64 b ∧ a.cq.Spans 16 b) ∧ ¬(a.sq.Spans 64 b ∧ a.eq.Spans 32 b)
        ∧ ¬(a.cq.Spans 16 b ∧ a.eq.Spans 32 b)) := by
  simp only [AnchorRecord.placementOk, Bool.and_eq_true, Ring.placed_iff, Ring.extents_apart_iff, forall_and]
  tauto

end

/-- Settles O30: the checks are the model's, in its order. -/
theorem anchorChecksInOrder : Obligations.AnchorChecksInOrder := by
  intro a hostFrames sizes inSq inCq inEq placement
  have sizesOk : a.sizesOk = true ↔ sizes := a.sizesOk_iff
  have placementOk : a.placementOk hostFrames = true ↔ placement := a.placementOk_iff hostFrames
  rw [← sizesOk, ← placementOk]
  unfold AnchorRecord.validate
  refine ⟨fun version => ?_, fun version bad => ?_, fun version fits bad => ?_, fun version fits placed bad => ?_,
    fun version fits placed low high => ?_⟩
  · rw [if_pos version]
  · rw [if_neg (not_not.2 version), if_pos (Bool.eq_false_of_not_eq_true bad)]
  · rw [if_neg (not_not.2 version), if_neg (by simp [fits]), if_pos (Bool.eq_false_of_not_eq_true bad)]
  · rw [if_neg (not_not.2 version), if_neg (by simp [fits]), if_neg (by simp [placed]), if_pos (by omega)]
  · rw [if_neg (not_not.2 version), if_neg (by simp [fits]), if_neg (by simp [placed]), if_neg (by omega)]

/-! ### The end of the anchor read (R112 to R114) -/

section
variable {u : State} {e : Engine} (engine : u.engine = e)
include engine

/-- A start that fails leaves the engine OFF with its error, and nothing else taken (R112, R113). -/
theorem State.failStart_eq (err : StartError) :
    u.failStart err = u.withEngine { e with state := .off, startError := err } := engine ▸ rfl

/-- An accepted anchor gives the engine its rings, threshold and flag, and RUNNING; then its indices are judged (R114). -/
theorem State.acceptAnchor_eq (a : AnchorRecord) : u.acceptAnchor a
    = ((u.withTables { u.tables with defaults := a.attributes }).withEngine { e with
        state := .running, rings := some ⟨a.sq, a.cq, a.eq, 0, 0, 0, true, true⟩, threshold := a.threshold
        reportCorrected := a.reportCorrected }).judgeIndices a := engine ▸ rfl

end

/-- ANCHOR_READ_END hands on the detections, and the start fails or the anchor is accepted (R112, R113). -/
theorem exec_anchorReadEnd {s : State} {line : Nat} {reports : List WordReport} (live : s.resetAsserted = false)
    (tenure : s.arbiter.tenure = some ⟨.anchorRead, line, reports, false⟩) :
    let u := reports.foldl (handedOn .fetch none line) s.freeChannel
    let a := anchorOfWords (recordWords reports)
    exec .anchorReadEnd s = .next (if anyLost reports then u.failStart .anchorUnreadable
      else if a.validate u.straps.hostFrames = .none then u.acceptAnchor a
      else u.failStart (a.validate u.straps.hostFrames)).conclude := by
  simp only [exec, execAnchorReadEnd, State.endTenure, State.ending_of_tenure (f := (· == .anchorRead)) live tenure rfl,
    State.endAnchorRead, State.handWords_eq]
  rfl

section
variable {u : State} {a : AnchorRecord}

theorem State.judgeIndices_passes (tail : u.engine.sqTail.toNat < 2 ^ a.sq.exponent) (cq : u.engine.cqHead = 0#16)
    (eq : u.engine.eqHead = 0#16) : u.judgeIndices a = u := by
  have belowN : ¬ a.sq.entries ≤ u.engine.sqTail.toNat := Nat.not_le.2 tail
  rw [State.judgeIndices, if_neg belowN, if_neg (not_not.2 cq), if_neg (not_not.2 eq)]

theorem State.judgeIndices_badSqTail (tail : 2 ^ a.sq.exponent ≤ u.engine.sqTail.toNat) :
    u.judgeIndices a = u.halt .badSqTail := if_pos tail

theorem State.judgeIndices_badCqHead (tail : u.engine.sqTail.toNat < 2 ^ a.sq.exponent) (cq : u.engine.cqHead ≠ 0#16) :
    u.judgeIndices a = u.halt .badCqHead := by
  have belowN : ¬ a.sq.entries ≤ u.engine.sqTail.toNat := Nat.not_le.2 tail
  rw [State.judgeIndices, if_neg belowN, if_pos cq]

theorem State.judgeIndices_badEqHead (tail : u.engine.sqTail.toNat < 2 ^ a.sq.exponent) (cq : u.engine.cqHead = 0#16)
    (eq : u.engine.eqHead ≠ 0#16) : u.judgeIndices a = u.halt .badEqHead := by
  have belowN : ¬ a.sq.entries ≤ u.engine.sqTail.toNat := Nat.not_le.2 tail
  rw [State.judgeIndices, if_neg belowN, if_neg (not_not.2 cq), if_pos eq]

end

/-- The anchor's fields stand where 11.2 places them (R178). -/
theorem anchorOfWords_eq (w0 w1 w2 w3 w4 w5 w6 w7 : DataWord) : anchorOfWords [w0, w1, w2, w3, w4, w5, w6, w7] =
    { version := (w0.extractLsb' 0 8).toNat, reportCorrected := w0.getLsbD 8, threshold := (w0.extractLsb' 16 16).toNat
      attributes := ⟨w0.getLsbD 32, w0.getLsbD 33, w0.getLsbD 34, w0.getLsbD 35⟩
      sq := ⟨w1.toNat, (w4.extractLsb' 0 8).toNat⟩, cq := ⟨w2.toNat, (w4.extractLsb' 8 8).toNat⟩
      eq := ⟨w3.toNat, (w4.extractLsb' 16 8).toNat⟩ } := by
  have whole (w : DataWord) : w.extractLsb' 0 64 = w := BitVec.extractLsb'_eq_self
  have attributes : attributesOfBits (w0.extractLsb' 32 4)
      = ⟨w0.getLsbD 32, w0.getLsbD 33, w0.getLsbD 34, w0.getLsbD 35⟩ := by
    simp [attributesOfBits]
  have base (w : DataWord) : (w.extractLsb' 0 64).toNat = w.toNat := by rw [whole]
  simp only [← base w1, ← base w2, ← base w3, ← attributes]
  rfl

/-- Settles O31: a lost word, then the anchor's checks, then the stored indices decide. -/
theorem anchorReadEndStartsOrFails : Obligations.AnchorReadEndStartsOrFails := by
  refine ⟨fun s line reports live _ tenure => ?_, anchorOfWords_eq⟩
  intro free u lost a run
  have handed : Accounted free u := handedOn_accounted .fetch none line reports free
  have engine : u.engine = s.engine := handed.engine
  have straps : u.straps = s.straps := handed.straps
  have accepted : u.acceptAnchor a = run.judgeIndices a := State.acceptAnchor_eq engine a
  have ends : exec .anchorReadEnd s = .next (if anyLost reports then u.failStart .anchorUnreadable
      else if a.validate u.straps.hostFrames = .none then u.acceptAnchor a
      else u.failStart (a.validate u.straps.hostFrames)).conclude := exec_anchorReadEnd live tenure
  have lost_iff : anyLost reports = true ↔ lost := anyLost_iff reports
  rw [ends, straps, accepted, State.failStart_eq engine, State.failStart_eq engine]
  refine ⟨handed, fun damaged => ?_, fun whole invalid => ?_, fun whole valid => ?_⟩
  · rw [if_pos (lost_iff.2 damaged)]
  · rw [if_neg (mt lost_iff.1 whole), if_neg invalid]
  · rw [if_neg (mt lost_iff.1 whole), if_pos valid]
    refine ⟨fun tail cq eq => ?_, fun tail => ?_, fun tail cq => ?_, fun tail cq eq => ?_⟩
    · rw [State.judgeIndices_passes (u := run) tail cq eq]
    · rw [State.judgeIndices_badSqTail (u := run) tail]
    · rw [State.judgeIndices_badCqHead (u := run) tail cq]
    · rw [State.judgeIndices_badEqHead (u := run) tail cq eq]

end Sys2Proof.Machine
end

section
/-!
A completion post, settled at its grant (R117, R119, R141, R180). Settled here: O36.
-/

namespace Sys2Proof.Machine

/-- RING presents the head completion first, its ring having room (R21, R141). -/
theorem State.ringWork_completion {s : State} {r : Rings} {c : Completion} {rest : List Completion}
    (posts : s.engine.state.posts = true) (rings : s.engine.rings = some r) (backlog : s.admission.backlog = c :: rest)
    (room : r.cq.room r.cqProducer s.engine.cqHead.toNat = true) : s.ringWork = some (.completion r c rest) := by
  simp only [State.ringWork_posts posts rings, State.postWork, backlog, if_pos room]

/-- Settles O36: RING presents the head completion, and its post writes the record's two words. -/
theorem completionPostIsSettledAtItsGrant : Obligations.CompletionPostIsSettledAtItsGrant := by
  refine ⟨fun n x y entries => ringDistance_eq_emod x y entries, ?_⟩
  intro s r c rest posts rings backlog room line t next
  have presented := State.ringWork_completion posts rings backlog ((Ring.room_iff ..).2 room)
  have posted : t = s.postCompletion r c rest := by simp only [t, State.grant, State.grantRing, presented]
  have twoWords : (c.words r.cqLap).length = 2 := rfl
  have stored (i : Nat) (hi : i < 2) : t.memory.read (wordKey (s.sourceLine line) (2 * (r.cqProducer % 4) + i))
      = .clean ((c.words r.cqLap).getD i 0#64) := by
    have inRecord : 2 * (r.cqProducer % 4) ≤ 2 * (r.cqProducer % 4) + i
        ∧ 2 * (r.cqProducer % 4) + i < 2 * (r.cqProducer % 4) + (c.words r.cqLap).length := by omega
    rw [posted]
    refine (read_wholeWordWrites s.memory (s.sourceLine line) (s.dualLine line) _ _ (by omega) (.inl rfl)).trans ?_
    rw [if_pos inRecord, Nat.add_sub_cancel_left]
  have elsewhere (l w : Nat) (hw : w < 8)
      (outside : ¬(w = 2 * (r.cqProducer % 4) ∨ w = 2 * (r.cqProducer % 4) + 1)
        ∨ l ≠ s.sourceLine line ∧ s.dualLine line ≠ some l) :
      t.memory.read (wordKey l w) = s.memory.read (wordKey l w) := by
    rw [posted]
    exact read_wholeWordWrites_outside s.memory (s.sourceLine line) (s.dualLine line) _ _ hw
      (outside.imp_left fun otherPlace => by omega)
  refine ⟨?_, ?_, ?_, ?_, stored 0 (by decide), stored 1 (by decide), elsewhere⟩
  all_goals
    rw [posted]
    rfl

end Sys2Proof.Machine
end

section
/-!
The live commands (R128) through a happening: what each operation of the machine makes of the tags that are live. The
weight of the live commands under any function of a tag and its acceptance is followed through every operation once; the
tag set and the live count are two such weights. Beside it, a slot keeps its command while it is occupied (R136).
-/

namespace Sys2Proof.Machine

/-! ### The weight of the live commands -/

section
variable (f : Tag → Bool → Nat)

/-- The weight of the tags that an origin, a place of the slots, the tables, admission or the whole state holds live;
`f` takes a tag and whether its record was accepted. -/
def Origin.liveWeight (o : Origin) : Nat := (o.tags.map (f · true)).sum

def placeWeight (p : Option Slot) : Nat := ((p.toList.flatMap Slot.tags).map (f · true)).sum

def Tables.liveWeight (t : Tables) : Nat :=
  (t.retireQueue.map (·.origin.liveWeight f)).sum + ((t.migration.map (·.origin)).elim 0 (Origin.liveWeight f))

def Admission.liveWeight (a : Admission) : Nat :=
  (a.pendingList.map fun p => f p.tag true).sum + (a.slots.map (placeWeight f)).sum
    + (a.backlog.map fun c => f c.tag c.accepted).sum

def State.liveWeight (s : State) : Nat := s.admission.liveWeight f + s.tables.liveWeight f

end

/-- The sum over a list of lists is the sum of the lists' sums. -/
theorem sum_map_flatMap {α β : Type} (l : List α) (g : α → List β) (f : β → Nat) :
    ((l.flatMap g).map f).sum = (l.map fun a => ((g a).map f).sum).sum := by
  induction l with
  | nil => rfl
  | cons a l ih => simp [ih]

/-- The tables' weight is that of the tags they hold. -/
theorem Tables.liveWeight_eq (f : Tag → Bool → Nat) (t : Tables) : t.liveWeight f = (t.retireTags.map (f · true)).sum := by
  rw [Tables.retireTags, List.map_append, List.sum_append, sum_map_flatMap, sum_map_flatMap]
  cases migration : t.migration <;> simp [Tables.liveWeight, Origin.liveWeight, migration]

/-- The weight of the live commands is that of the tag set and of the refused records' completions. -/
theorem State.liveWeight_eq (f : Tag → Bool → Nat) (s : State) : s.liveWeight f = (s.tagSet.map (f · true)).sum
    + ((s.admission.backlog.filter (!·.accepted)).map fun c => f c.tag false).sum := by
  have slots : (s.admission.slots.map (placeWeight f)).sum
      = (((s.admission.slots.flatMap (·.toList)).flatMap (·.tags)).map (f · true)).sum := by
    rw [List.flatMap_assoc, sum_map_flatMap]
    rfl
  have backlog (l : List Completion) : (l.map fun c => f c.tag c.accepted).sum
      = (((l.filter (·.accepted)).map (·.tag)).map (f · true)).sum
        + ((l.filter (!·.accepted)).map fun c => f c.tag false).sum := by
    induction l with
    | nil => rfl
    | cons c l ih => cases accepted : c.accepted <;> simp [accepted, ih] <;> omega
  simp only [State.liveWeight, Admission.liveWeight, Tables.liveWeight_eq, slots, backlog, State.tagSet, List.map_append,
    List.sum_append, List.map_map]
  simp only [Function.comp_def]
  omega

/-- The live count is a weight. -/
theorem State.liveCount_eq_liveWeight (s : State) : s.liveCount = s.liveWeight fun _ _ => 1 := by
  have split := s.admission.backlog.length_eq_length_filter_add (·.accepted)
  rw [State.liveWeight_eq]
  simp only [State.liveCount, State.tagSet, List.map_const', List.sum_replicate, List.length_append, List.length_map,
    smul_eq_mul, mul_one]
  omega

/-- The weight that counts one tag of the tag set. -/
def countsTag (tag : Tag) (x : Tag) (accepted : Bool) : Nat := if accepted && x == tag then 1 else 0

/-- How often a tag stands in the tag set is a weight. -/
theorem State.count_tagSet_eq_liveWeight (s : State) (tag : Tag) : s.tagSet.count tag = s.liveWeight (countsTag tag) := by
  have counted (l : List Tag) : (l.map (countsTag tag · true)).sum = l.count tag := by
    induction l with
    | nil => rfl
    | cons x l ih => rw [List.map_cons, List.sum_cons, List.count_cons, ih, Nat.add_comm]; rfl
  have refused (l : List Completion) : (l.map fun c => countsTag tag c.tag false).sum = 0 := by simp [countsTag]
  rw [State.liveWeight_eq, counted, refused, Nat.add_zero]

theorem State.liveLaws_iff (s : State) : s.LiveLaws ↔
    (∀ tag, s.liveWeight (countsTag tag) ≤ 1) ∧ (s.liveWeight fun _ _ => 1) + (if s.fetchInTenure then 1 else 0) ≤ 32 := by
  simp only [← State.count_tagSet_eq_liveWeight, ← State.liveCount_eq_liveWeight, ← List.nodup_iff_count_le_one]
  exact ⟨fun h => ⟨h.tags, h.bounded⟩, fun h => ⟨h.1, h.2⟩⟩

/-! ### The weight under each operation on the state -/

section
variable (f : Tag → Bool → Nat)

theorem placeWeight_some (sl : Slot) :
    placeWeight f (some sl) = f sl.tag true + (sl.abortedBy.toList.map (f · true)).sum := by
  simp [placeWeight, Slot.tags]

theorem placeWeight_none : placeWeight f none = 0 := rfl

theorem Origin.liveWeight_command (tag : Tag) : (Origin.command tag).liveWeight f = f tag true := by
  simp [Origin.liveWeight, Origin.tags]

theorem Origin.liveWeight_auto : Origin.auto.liveWeight f = 0 := rfl

/-- The sum over a list when one element is put. -/
theorem sum_map_set {α : Type} (g : α → Nat) (l : List α) (k : Nat) (x y : α) (here : l[k]? = some y) :
    ((l.set k x).map g).sum + g y = (l.map g).sum + g x := by
  induction l generalizing k with
  | nil => cases here
  | cons a l ih =>
    cases k with
    | zero =>
      cases here
      simp only [List.set_cons_zero, List.map_cons, List.sum_cons]
      omega
    | succ k =>
      have := ih k here
      simp only [List.set_cons_succ, List.map_cons, List.sum_cons]
      omega

/-- A list without some of its elements, one of them given, weighs less by that one at least. -/
theorem sum_map_filter_add_le {α : Type} (g : α → Nat) (keep : α → Bool) (l : List α) (x : α) (inside : x ∈ l)
    (out : keep x = false) : ((l.filter keep).map g).sum + g x ≤ (l.map g).sum := by
  obtain ⟨before, behind, rfl⟩ := List.append_of_mem inside
  have lighter (l : List α) : ((l.filter keep).map g).sum ≤ (l.map g).sum :=
    (List.filter_sublist.map g).sum_le_sum fun _ _ => Nat.zero_le _
  have first := lighter before
  have last := lighter behind
  simp only [List.filter_append, List.filter_cons, out, Bool.false_eq_true, if_false, List.map_append, List.sum_append,
    List.map_cons, List.sum_cons]
  omega

variable (s : State)

theorem State.complete_liveWeight (c : Completion) :
    (s.complete c).liveWeight f = s.liveWeight f + f c.tag c.accepted := by
  simp only [State.liveWeight, State.complete, Admission.liveWeight, State.withAdmission_admission,
    State.withAdmission_tables, List.map_append, List.sum_append, List.map_cons, List.map_nil, List.sum_cons, List.sum_nil]
  omega

theorem State.foldl_complete_liveWeight (l : List Completion) :
    (l.foldl State.complete s).liveWeight f = s.liveWeight f + (l.map fun c => f c.tag c.accepted).sum := by
  induction l generalizing s with
  | nil => rfl
  | cons c l ih => rw [List.foldl_cons, ih, State.complete_liveWeight, List.map_cons, List.sum_cons, Nat.add_assoc]

theorem State.completeOrigin_liveWeight (o : Origin) (st : Status) (l c u p : Nat) (r : BitVec 28) :
    (s.completeOrigin o st l c u p r).liveWeight f = s.liveWeight f + o.liveWeight f := by
  cases o with
  | auto => rfl
  | command tag => rw [State.completeOrigin, State.complete_liveWeight, Origin.liveWeight_command]

/-- Tables with the same Retire Queue and the same migration hold the same tags. -/
theorem Tables.liveWeight_congr {t u : Tables} (queue : u.retireQueue = t.retireQueue)
    (migration : u.migration.map (·.origin) = t.migration.map (·.origin)) : u.liveWeight f = t.liveWeight f := by
  rw [Tables.liveWeight, queue, migration, Tables.liveWeight]

theorem State.withTables_liveWeight (x : Tables) :
    (s.withTables x).liveWeight f + s.tables.liveWeight f = s.liveWeight f + x.liveWeight f := by
  simp only [State.liveWeight, State.withTables_admission, State.withTables_tables]
  omega

theorem State.withPendingList_liveWeight (l : List PendingCommand) :
    (s.withAdmission { s.admission with pendingList := l }).liveWeight f
        + (s.admission.pendingList.map fun p => f p.tag true).sum
      = s.liveWeight f + (l.map fun p => f p.tag true).sum := by
  simp only [State.liveWeight, Admission.liveWeight, State.withAdmission_admission, State.withAdmission_tables]
  omega

variable {s}

theorem State.setSlot_liveWeight {k : Nat} {p : Option Slot} (here : s.admission.slots[k]? = some p) (x : Option Slot) :
    (s.setSlot k x).liveWeight f + placeWeight f p = s.liveWeight f + placeWeight f x := by
  have slots := sum_map_set (placeWeight f) s.admission.slots k x p here
  simp only [State.liveWeight, State.setSlot, Admission.liveWeight, State.withAdmission_admission,
    State.withAdmission_tables]
  omega

end


/-! ### Operations that make nothing live -/

/-- From `s` to `t` no command becomes live, no fetch whose record will be judged begins, and a slot that is occupied in
`t` was occupied in `s`, by the same command. -/
structure GainsNothing (s t : State) : Prop where
  weight : ∀ f, t.liveWeight f ≤ s.liveWeight f
  fetch : t.fetchInTenure = true → s.fetchInTenure = true
  slots : ∀ k b, t.slotAt k = some b → ∃ a, s.slotAt k = some a ∧ a.command = b.command

namespace GainsNothing
variable {s t u : State}

theorem refl (s : State) : GainsNothing s s := ⟨fun _ => le_rfl, id, fun _ b here => ⟨b, here, rfl⟩⟩

theorem trans (h : GainsNothing s t) (k : GainsNothing t u) : GainsNothing s u where
  weight f := (k.weight f).trans (h.weight f)
  fetch := h.fetch ∘ k.fetch
  slots j c here := by
    obtain ⟨b, here, same⟩ := k.slots j c here
    obtain ⟨a, here, same'⟩ := h.slots j b here
    exact ⟨a, here, same'.trans same⟩

/-- The same slots and the same tenure, and no more live. -/
theorem of_weight (weight : ∀ f, t.liveWeight f ≤ s.liveWeight f) (slots : t.admission.slots = s.admission.slots)
    (tenure : t.arbiter.tenure = s.arbiter.tenure) : GainsNothing s t where
  weight := weight
  fetch fetched := by rwa [State.fetchInTenure, ← tenure]
  slots k b here := ⟨b, by rwa [State.slotAt, ← slots], rfl⟩

/-- The same slots, pending list, backlog and tenure, and the same retirements. -/
theorem of_tables (admission : t.admission = s.admission) (queue : t.tables.retireQueue = s.tables.retireQueue)
    (migration : t.tables.migration.map (·.origin) = s.tables.migration.map (·.origin))
    (tenure : t.arbiter.tenure = s.arbiter.tenure) : GainsNothing s t :=
  of_weight (fun f => by rw [State.liveWeight, admission, Tables.liveWeight_congr f queue migration]; exact le_rfl)
    (admission ▸ rfl) tenure

/-- Admission, the tables and the tenure stand. -/
theorem of_groups (admission : t.admission = s.admission) (tables : t.tables = s.tables)
    (tenure : t.arbiter.tenure = s.arbiter.tenure) : GainsNothing s t :=
  of_tables admission (tables ▸ rfl) (tables ▸ rfl) tenure

/-- What is accounting and makes nothing live. -/
theorem of_accounted (h : Accounted s t) (weight : ∀ f, t.liveWeight f ≤ s.liveWeight f) : GainsNothing s t :=
  of_weight weight h.slots (h.arbiter ▸ rfl)

/-- A tenure that is no fetch begins or ends, admission and the tables standing. -/
theorem of_noFetch (admission : t.admission = s.admission) (tables : t.tables = s.tables) (none : t.fetchInTenure = false) :
    GainsNothing s t where
  weight f := by rw [State.liveWeight, admission, tables, State.liveWeight]
  fetch fetched := absurd fetched (by simp [none])
  slots k b here := ⟨b, by rwa [State.slotAt, ← admission], rfl⟩

end GainsNothing

theorem State.withAdmission_gainsNothing (s : State) (x : Admission)
    (weight : ∀ f, x.liveWeight f ≤ s.admission.liveWeight f) (slots : x.slots = s.admission.slots) :
    GainsNothing s (s.withAdmission x) :=
  .of_weight (fun f => Nat.add_le_add_right (weight f) _) slots rfl

/-! ### Accounting -/

section
variable (s : State)

theorem State.offer_gainsNothing (e : EventRecord) : GainsNothing s (s.offer e) :=
  .of_groups (s.offer_admission e) (s.offer_tables e) (by rw [(s.offer_accounted e).arbiter])

theorem State.offer_liveWeight (f : Tag → Bool → Nat) (e : EventRecord) : (s.offer e).liveWeight f = s.liveWeight f := by
  rw [State.liveWeight, State.offer_admission, State.offer_tables, State.liveWeight]

theorem State.setRetire_liveWeight (f : Tag → Bool → Nat) (frame : Nat) (st : RetireState) :
    (s.withTables (s.tables.setRetire frame st)).liveWeight f = s.liveWeight f := rfl

/-- A refused start turns its request into a completion (R73). -/
theorem State.refuseStart_liveWeight (f : Tag → Bool → Nat) (r : RetireRequest) :
    (s.refuseStart r).liveWeight f = s.liveWeight f + r.origin.liveWeight f := by
  unfold State.refuseStart
  dsimp only
  rw [State.setRetire_liveWeight, State.completeOrigin_liveWeight, State.offer_liveWeight]

/-- A migration that starts on an IDLE unit takes over its request's tag (R74). -/
theorem State.beginMigration_liveWeight (f : Tag → Bool → Nat) (r : RetireRequest) (t : Nat)
    (idle : s.tables.migration = none) :
    (s.beginMigration r t).liveWeight f = s.liveWeight f + r.origin.liveWeight f := by
  unfold State.beginMigration
  dsimp only
  rw [State.setRetire_liveWeight, State.offer_liveWeight]
  simp only [State.liveWeight, State.withTables_admission, State.withTables_tables, Tables.liveWeight, idle,
    Tables.putEntry_retireQueue, Tables.setSpare_retireQueue, Option.map_some, Option.map_none, Option.elim]
  omega

end

/-- Migrations that start make nothing live: each request leaves the queue for the unit or for the backlog (R72, R73). -/
theorem startFrom_liveWeight (f : Tag → Bool → Nat) (l : List RetireRequest) (s : State)
    (queue : s.tables.retireQueue = l) : (startFrom l s).liveWeight f = s.liveWeight f := by
  induction l generalizing s with
  | nil => rfl
  | cons r rest ih =>
    unfold startFrom
    split
    · rename_i starts
      have popped := s.withTables_liveWeight f { s.tables with retireQueue := rest }
      simp only [Tables.liveWeight, queue, List.map_cons, List.sum_cons] at popped
      dsimp only
      split
      · rw [ih _ (by simp [(State.refuseStart_eq _ r).2.1]), State.refuseStart_liveWeight]
        omega
      · have idle : (s.withTables { s.tables with retireQueue := rest }).tables.migration = none :=
          Option.isNone_iff_eq_none.1 starts.1
        dsimp only at idle
        rw [State.beginMigration_liveWeight _ _ _ _ idle]
        omega
    · rfl

section
variable (s : State)

theorem State.startMigrations_liveWeight (f : Tag → Bool → Nat) : s.startMigrations.liveWeight f = s.liveWeight f :=
  startFrom_liveWeight f _ s rfl

theorem State.startMigrations_gainsNothing : GainsNothing s s.startMigrations :=
  .of_accounted s.startMigrations_accounted fun f => (s.startMigrations_liveWeight f).le

/-- A request that joins the queue brings its tag (R67, R68). -/
theorem State.joinQueue_liveWeight (f : Tag → Bool → Nat) (r : RetireRequest) :
    (s.joinQueue r).liveWeight f = s.liveWeight f + r.origin.liveWeight f := by
  unfold State.joinQueue
  dsimp only
  rw [State.startMigrations_liveWeight]
  simp only [State.liveWeight, State.withTables_admission, State.withTables_tables, Tables.liveWeight,
    Tables.setRetire_retireQueue, Tables.setRetire_migration, List.map_append, List.sum_append, List.map_cons, List.map_nil,
    List.sum_cons, List.sum_nil]
  omega

theorem State.offerAuto_gainsNothing (frame : Nat) (c : Cause) : GainsNothing s (s.offerAuto frame c) := by
  unfold State.offerAuto
  split
  · exact .refl s
  · split
    · exact s.offer_gainsNothing _
    · exact .of_accounted (s.joinQueue_accounted _) fun f => (s.joinQueue_liveWeight f _).le

theorem State.considerOffer_gainsNothing (frame : Nat) : GainsNothing s (s.considerOffer frame) := by
  unfold State.considerOffer
  split
  · exact .refl s
  · split
    · exact s.offerAuto_gainsNothing ..
    · exact .refl s

/-- A detection makes nothing live: the retirement it may ask for is an automatic one (R90, R95). -/
theorem State.enterDetection_gainsNothing (line word : Nat) (uncorrectable : Bool) :
    GainsNothing s (s.enterDetection line word uncorrectable) := by
  have entered : GainsNothing s (s.withTables (s.tables.enter line word uncorrectable)) := by
    refine .of_tables rfl ?_ ?_ rfl
    all_goals
      simp only [State.withTables_tables, Tables.enter]
      split <;> rfl
  exact entered.trans (State.considerOffer_gainsNothing _ _)

theorem State.present_gainsNothing (k : CaptureKind) (src : Source) (line word : Nat) :
    GainsNothing s (s.present k src line word) := .of_groups rfl rfl rfl

/-- Handing on a finding makes nothing live (R90). -/
theorem State.handOn_gainsNothing (e : EventRecord) (k : CaptureKind) (counted : Option Bool) :
    GainsNothing s (s.handOn e k counted) := by
  have presented := (s.offer_gainsNothing e).trans (State.present_gainsNothing _ k e.source e.line e.word)
  unfold State.handOn
  cases counted with
  | none => exact presented
  | some u => exact presented.trans (State.enterDetection_gainsNothing ..)

theorem State.handWord_gainsNothing (src : Source) (tag : Option Tag) (line : Nat) (r : WordReport) :
    GainsNothing s (State.handWord src tag line s r) := by
  rw [State.handWord_eq, handedOn]
  split <;> first | exact s.handOn_gainsNothing .. | exact .refl s

theorem State.handReadWord_gainsNothing (line : Nat) (r : WordReport) : GainsNothing s (State.handReadWord line s r) := by
  rw [State.handReadWord_eq]
  split <;> first | exact s.handOn_gainsNothing .. | exact .refl s

theorem State.handDrainWord_gainsNothing (line : Nat) (r : WordReport) : GainsNothing s (State.handDrainWord line s r) := by
  rw [State.handDrainWord_eq]
  split <;> first | exact s.handOn_gainsNothing .. | exact .refl s

theorem State.handCopyWord_gainsNothing (tag : Option Tag) (line : Nat) (r : WordReport) :
    GainsNothing s (State.handCopyWord tag line s r) := by
  rw [State.handCopyWord_eq]
  split <;> first | exact s.handOn_gainsNothing .. | exact .refl s

end

theorem GainsNothing.foldl {g : State → WordReport → State} (one : ∀ s r, GainsNothing s (g s r)) (rs : List WordReport)
    (s : State) : GainsNothing s (rs.foldl g s) := by
  induction rs generalizing s with
  | nil => exact .refl s
  | cons r rs ih => exact (one s r).trans (ih _)

theorem State.handWords_gainsNothing (s : State) (src : Source) (tag : Option Tag) (line : Nat) (rs : List WordReport) :
    GainsNothing s (s.handWords src tag line rs) :=
  GainsNothing.foldl (fun s => s.handWord_gainsNothing src tag line) rs s

/-! ### The Migration Unit -/

section
variable {s : State}

/-- The record of the migration in progress is replaced by one of the same origin. -/
theorem State.withRecord_gainsNothing {m m' : MigrationRecord} (copying : s.tables.migration = some m)
    (same : m'.origin = m.origin) : GainsNothing s (s.withTables { s.tables with migration := some m' }) :=
  .of_tables rfl rfl (by simp [copying, same]) rfl

theorem State.discardTenure_fetch (g : Work → Bool) (fetched : (s.discardTenure g).fetchInTenure = true) :
    s.fetchInTenure = true := by
  unfold State.fetchInTenure State.discardTenure at fetched
  unfold State.fetchInTenure
  cases tenure : s.arbiter.tenure with
  | none => simp [tenure] at fetched
  | some t =>
    cases discards : g t.work
    · simpa [tenure, discards] using fetched
    · simp [tenure, discards] at fetched

/-- Discarding reports makes no tenure a fetch whose record will be judged (R18). -/
theorem State.discardTenure_gainsNothing (g : Work → Bool) : GainsNothing s (s.discardTenure g) :=
  ⟨fun _ => le_rfl, State.discardTenure_fetch g, fun _ b here => ⟨b, here, rfl⟩⟩

/-- The migration in progress leaves the unit, and its tag goes with it. -/
theorem State.withoutMigration_liveWeight (f : Tag → Bool → Nat) {m : MigrationRecord} (x : Tables)
    (copying : s.tables.migration = some m) (queue : x.retireQueue = s.tables.retireQueue) (idle : x.migration = none) :
    (s.withTables x).liveWeight f + m.origin.liveWeight f = s.liveWeight f := by
  have left := s.withTables_liveWeight f x
  simp only [Tables.liveWeight, copying, queue, idle, Option.map_some, Option.map_none, Option.elim] at left
  omega

/-- Cut-over turns the migration in progress into a completion (R79). -/
theorem State.cutOver_gainsNothing {m m' : MigrationRecord} (copying : s.tables.migration = some m')
    (same : m'.origin = m.origin) : GainsNothing s (s.cutOver m) := by
  let done := (((s.offerSpareFailed m).offer (retireEvent .retireDone m.origin m.frame (some m.target)
    (causeBit m.origin m.cause) m.poisonedLines)).completeOrigin m.origin m.doneStatus 64 m.corrected m.uncorrectable
    m.poisonedWords (retireResult m.target m.poisonedLines))
  have tables : done.tables = s.tables := by
    cases origin : m.origin <;> simp [done, origin, State.completeOrigin, State.complete]
  have accounted : Accounted s done :=
    ((s.offerSpareFailed_accounted m).thenOffer _).trans (State.completeOrigin_accounted ..)
  have offered (f) : (s.offerSpareFailed m).liveWeight f = s.liveWeight f := by
    rw [State.liveWeight, State.offerSpareFailed_admission, State.offerSpareFailed_tables, State.liveWeight]
  rw [State.cutOver_eq]
  refine GainsNothing.trans (.of_accounted (accounted.thenTables (s.tables.retired m) (by simp [tables])
    (by simp [tables])) fun f => ?_) (State.startMigrations_gainsNothing _)
  have left := State.withoutMigration_liveWeight (s := done) f (s.tables.retired m) (tables ▸ copying) (by simp [tables]) rfl
  have completed : done.liveWeight f = s.liveWeight f + m.origin.liveWeight f := by
    rw [State.completeOrigin_liveWeight, State.offer_liveWeight, offered]
  rw [same] at left
  omega

theorem State.advanceCursor_gainsNothing {m m' : MigrationRecord} (copying : s.tables.migration = some m')
    (same : m'.origin = m.origin) : GainsNothing s (s.advanceCursor m) :=
  .of_tables rfl rfl (by simp [State.advanceCursor, copying, same]) rfl

/-- The end of a Copy Step (R76). -/
theorem State.endCopyStep_gainsNothing {m : MigrationRecord} (line : Nat) (rs : List WordReport)
    (copying : s.tables.migration = some m) : GainsNothing s (s.endCopyStep m line rs) := by
  have counted : GainsNothing s (s.withTables { s.tables with migration := some (m.count rs) }) :=
    State.withRecord_gainsNothing copying rfl
  have handed := counted.trans (GainsNothing.foldl (fun s => s.handCopyWord_gainsNothing (m.count rs).origin.tag? line) rs _)
  have still := congrArg Tables.migration (State.handCopyWords_tables (m.count rs).origin.tag? line rs
    (s.withTables { s.tables with migration := some (m.count rs) })).1
  unfold State.endCopyStep
  dsimp only
  split
  · exact handed.trans (State.advanceCursor_gainsNothing still rfl)
  · exact handed.trans (State.cutOver_gainsNothing still rfl)

theorem State.takeCopyStep_gainsNothing (t : Tenure) : GainsNothing s (State.takeCopyStep t s) := by
  unfold State.takeCopyStep
  split
  · rename_i m copying
    exact State.endCopyStep_gainsNothing _ _ copying
  · exact .refl s

/-- A migrating RETIRE aborted leaves the unit for the backlog (R83). -/
theorem State.abortMigration_gainsNothing {m : MigrationRecord} (copying : s.tables.migration = some m) :
    GainsNothing s (s.abortMigration m) := by
  have weight (f) : (s.abortMigration m).liveWeight f = s.liveWeight f := by
    have tables : (((s.offer (retireEvent .retireAborted m.origin m.frame (some m.target) false 0)).withArbiter
        s.arbiter.discardingCopy).completeOrigin m.origin .aborted (s.tables.cursorOf m.frame) m.corrected
        m.uncorrectable m.poisonedWords (retireResult m.target m.poisonedLines)).tables = s.tables := by
      rw [State.completeOrigin_tables, State.withArbiter_tables, State.offer_tables]
    have left := State.withoutMigration_liveWeight f (s.tables.aborted m) (tables ▸ copying) (by rw [tables]; rfl) rfl
    rw [← State.abortMigration_eq, State.completeOrigin_liveWeight] at left
    have offered := s.offer_liveWeight f (retireEvent .retireAborted m.origin m.frame (some m.target) false 0)
    simp only [State.liveWeight, State.withArbiter_tables, State.withArbiter_admission] at left offered ⊢
    omega
  have tenure : (s.abortMigration m).arbiter = (s.discardTenure (· == .copyStep)).arbiter := by
    rw [State.abortMigration_eq, State.discardTenure_copyStep, State.withTables_arbiter,
      (State.completeOrigin_accounted ..).arbiter]
    rfl
  have slots : (s.abortMigration m).admission.slots = s.admission.slots := by
    rw [State.abortMigration_eq, State.withTables_admission, (State.completeOrigin_accounted ..).slots,
      State.withArbiter_admission, State.offer_admission]
  exact (State.discardTenure_gainsNothing (· == .copyStep)).trans
    (.of_weight (fun f => (weight f).le) slots (congrArg Arbiter.tenure tenure))

/-- A queued RETIRE aborted leaves the queue for the backlog (R82). -/
theorem State.abortQueued_gainsNothing {r : RetireRequest} (queued : r ∈ s.tables.retireQueue) :
    GainsNothing s (s.abortQueued r) := by
  rw [State.abortQueued_eq]
  refine .of_accounted (((s.offer_accounted _).trans (State.completeOrigin_accounted ..)).thenTables _
    (by simp [State.completeOrigin_tables]) (by simp [State.completeOrigin_tables])) fun f => ?_
  have fewer := sum_map_filter_add_le (fun r => r.origin.liveWeight f) (fun q => !(q.frame == r.frame)) _ r queued (by simp)
  have completed := State.completeOrigin_liveWeight f (s.offer (retireEvent .retireAborted r.origin r.frame none false 0))
    r.origin .aborted 0 0 0 0 0#28
  rw [State.offer_liveWeight] at completed
  simp only [State.liveWeight, State.completeOrigin_tables, State.offer_tables, State.withTables_admission,
    State.withTables_tables, Tables.liveWeight, Tables.setRetire_retireQueue, Tables.setRetire_migration] at completed ⊢
  omega

end

/-! ### Engine Control, the port and the patrol -/

/-- Every slot empty, nothing live, and no fetch whose record will be judged (R124; 00_scope.md). -/
theorem GainsNothing.of_empty {s t : State} (weight : ∀ f, t.liveWeight f = 0) (slots : ∀ k, t.slotAt k = none)
    (fetch : t.fetchInTenure = false) : GainsNothing s t where
  weight f := (weight f).trans_le (Nat.zero_le _)
  fetch fetched := absurd fetched (by simp [fetch])
  slots k b here := absurd here (by simp [slots k])

theorem placeWeight_atHalt (f : Tag → Bool → Nat) (p : Option Slot) :
    placeWeight f (p.map Slot.atHalt) = placeWeight f p := by
  rcases p with _ | sl
  · rfl
  · rw [Option.map_some, placeWeight_some, placeWeight_some, Slot.atHalt_eq]

section
variable (s : State)

/-- A halt holds slots and makes nothing live (R122, R140). -/
theorem State.halt_gainsNothing (c : HaltCause) : GainsNothing s (s.halt c) := by
  cases posts : s.engine.state.posts with
  | false =>
    rw [State.halt_of_not_posts c posts]
    exact .refl s
  | true =>
    rw [State.halt_of_posts c posts]
    refine ⟨fun f => ?_, id, fun k b here => ?_⟩
    · have same : placeWeight f ∘ Option.map Slot.atHalt = placeWeight f := funext (placeWeight_atHalt f)
      simp only [State.liveWeight, State.halted, Admission.liveWeight, List.map_map, same]
      exact le_rfl
    · obtain ⟨a, before, rfl⟩ := placeAt_map _ _ _ _ here
      exact ⟨a, before, a.atHalt_command.symm⟩

theorem State.engineReset_gainsNothing : GainsNothing s s.engineReset := by
  rw [State.engineReset_eq, Tables.engineReset_eq]
  refine .of_empty (fun f => rfl) (fun k => placeAt_replicate_none 4 k) ?_
  rcases tenure : s.arbiter.tenure with _ | ⟨_ | _, _, _, _⟩ <;> simp [State.fetchInTenure]

theorem State.startAction_gainsNothing : GainsNothing s s.startAction := by
  unfold State.startAction State.startFromOff
  dsimp only
  repeat' split
  all_goals exact .of_groups rfl rfl rfl

theorem State.quiesceTest_gainsNothing : GainsNothing s s.quiesceTest := by
  unfold State.quiesceTest
  split <;> exact .of_groups rfl rfl rfl

theorem State.quiesceAction_gainsNothing : GainsNothing s s.quiesceAction := by
  unfold State.quiesceAction
  split
  · refine .trans ?_ (State.quiesceTest_gainsNothing _)
    exact .of_groups rfl rfl rfl
  all_goals exact .refl s

/-- A CTRL write taking effect (R109). -/
theorem State.writeCtrl_gainsNothing (v : BitVec 32) : GainsNothing s (s.writeCtrl v) := by
  have enabled : GainsNothing s (s.modifyEngine fun e => { e with enables := enablesOfValue v }) := .of_groups rfl rfl rfl
  refine enabled.trans ?_
  unfold State.writeCtrl
  dsimp only
  repeat' split
  · exact State.engineReset_gainsNothing _
  · exact State.startAction_gainsNothing _
  · exact State.quiesceAction_gainsNothing _
  · exact .refl _

theorem State.writeSqTail_gainsNothing (v : BitVec 16) : GainsNothing s (s.writeSqTail v) := by
  unfold State.writeSqTail
  repeat' split
  · exact .of_groups rfl rfl rfl
  · exact s.halt_gainsNothing _
  · exact .of_groups rfl rfl rfl

theorem State.writeCqHead_gainsNothing (v : BitVec 16) : GainsNothing s (s.writeCqHead v) := by
  unfold State.writeCqHead
  repeat' split
  · exact .of_groups rfl rfl rfl
  · exact s.halt_gainsNothing _
  · exact .of_groups rfl rfl rfl

theorem State.writeEqHead_gainsNothing (v : BitVec 16) : GainsNothing s (s.writeEqHead v) := by
  unfold State.writeEqHead
  repeat' split
  · exact .of_groups rfl rfl rfl
  · exact s.halt_gainsNothing _
  · exact .of_groups rfl rfl rfl

theorem State.deliver_gainsNothing (target : PostedRegister) (v : BitVec 32) : GainsNothing s (s.deliver target v) := by
  cases target
  · exact s.writeCtrl_gainsNothing v
  · exact s.writeSqTail_gainsNothing _

end

theorem deliverFrom_gainsNothing (l : List PostEntry) (s : State) : GainsNothing s (deliverFrom l s) := by
  induction l generalizing s with
  | nil => exact .refl s
  | cons e rest ih =>
    cases e with
    | memory line mask data => exact .refl s
    | register target v =>
      have left : GainsNothing s (s.setBuffer rest) := .of_groups rfl rfl rfl
      exact (left.trans (State.deliver_gainsNothing _ target v)).trans (ih _)

section
variable (s : State)

theorem State.joinBuffer_gainsNothing (e : PostEntry) : GainsNothing s (s.joinBuffer e) := by
  refine .trans ?_ (deliverFrom_gainsNothing _ _)
  exact .of_groups rfl rfl rfl

theorem State.respond_gainsNothing (code : ResponseCode) (words : List (Nat × DataWord)) :
    GainsNothing s (s.respond code words) := .of_groups rfl rfl rfl

theorem State.hold_gainsNothing (r : HeldRequest) : GainsNothing s (s.hold r) := .of_groups rfl rfl rfl

theorem State.acceptEntry_gainsNothing (e : PostEntry) : GainsNothing s (s.acceptEntry e) := by
  unfold State.acceptEntry
  repeat' split
  · exact (s.respond_gainsNothing ..).trans (State.offer_gainsNothing ..)
  all_goals exact (s.respond_gainsNothing ..).trans (State.joinBuffer_gainsNothing ..)

theorem State.presentWrite_gainsNothing (e : PostEntry) : GainsNothing s (s.presentWrite e) := by
  unfold State.presentWrite
  split
  · exact s.acceptEntry_gainsNothing e
  · exact s.hold_gainsNothing _

theorem State.acceptHeld_gainsNothing : GainsNothing s s.acceptHeld := by
  unfold State.acceptHeld
  split
  · exact (s.hold_gainsNothing _).trans (State.acceptEntry_gainsNothing ..)
  all_goals exact .refl s

/-- The channel becomes free, and no fetch is in tenure then (R17). -/
theorem State.freeChannel_gainsNothing : GainsNothing s s.freeChannel := .of_noFetch rfl rfl rfl

/-- The end of a host read (R32, R33). -/
theorem State.endHostRead_gainsNothing (t : Tenure) : GainsNothing s (s.endHostRead t) :=
  ((s.freeChannel_gainsNothing.trans (State.respond_gainsNothing ..)).trans (State.hold_gainsNothing ..)).trans
    (GainsNothing.foldl (fun s => s.handReadWord_gainsNothing t.line) _ _)

/-- The end of a drain (R36, R37). -/
theorem State.endDrain_gainsNothing (t : Tenure) : GainsNothing s (s.endDrain t) := by
  have left : GainsNothing s (s.freeChannel.setBuffer s.port.buffer.tail) := .of_noFetch rfl rfl rfl
  exact ((left.trans (GainsNothing.foldl (fun s => s.handDrainWord_gainsNothing t.line) _ _)).trans
    (deliverFrom_gainsNothing _ _)).trans (State.acceptHeld_gainsNothing _)

theorem State.judgeIndices_gainsNothing (a : AnchorRecord) : GainsNothing s (s.judgeIndices a) := by
  unfold State.judgeIndices
  repeat' split
  · exact s.halt_gainsNothing _
  · exact s.halt_gainsNothing _
  · exact s.halt_gainsNothing _
  · exact .refl s

/-- The end of the anchor read (R112 to R114). -/
theorem State.endAnchorRead_gainsNothing (line : Nat) (rs : List WordReport) :
    GainsNothing s (s.endAnchorRead line rs) := by
  have failed (u : State) (e : StartError) : GainsNothing u (u.failStart e) := .of_groups rfl rfl rfl
  refine (s.handWords_gainsNothing .fetch none line rs).trans ?_
  unfold State.endAnchorRead
  dsimp only
  repeat' split
  · exact failed ..
  · refine .trans ?_ (State.judgeIndices_gainsNothing ..)
    exact .of_tables rfl rfl rfl rfl
  · exact failed ..

/-- The end of a pass (R104). -/
theorem State.endPass_gainsNothing : GainsNothing s s.endPass :=
  (s.offer_gainsNothing _).trans (.of_tables rfl rfl rfl rfl)

theorem State.expire_gainsNothing : GainsNothing s s.expire := by
  unfold State.expire
  split
  · exact .of_groups rfl rfl rfl
  · exact s.endPass_gainsNothing

/-- The end of a patrol tenure (R103). -/
theorem State.takePatrolTenure_gainsNothing (t : Tenure) : GainsNothing s (State.takePatrolTenure t s) := by
  refine (s.handWords_gainsNothing .patrol none t.line t.reports).trans ?_
  unfold State.takePatrolTenure State.patrolMovesOn
  repeat' split
  · exact .of_groups rfl rfl rfl
  · exact .of_groups rfl rfl rfl
  · refine .trans ?_ (State.endPass_gainsNothing _)
    exact .of_groups rfl rfl rfl

end

/-! ### Slots -/

section
variable {s : State} {k : Nat}

/-- An occupied slot is emptied, or another state of its command is put. -/
theorem State.setSlot_slots {x : Option Slot} {a : Slot} (here : s.slotAt k = some a)
    (same : ∀ b, x = some b → a.command = b.command) (j : Nat) (b : Slot) (there : (s.setSlot k x).slotAt j = some b) :
    ∃ a, s.slotAt j = some a ∧ a.command = b.command := by
  by_cases mine : j = k
  · subst mine
    have inside : j < s.admission.slots.length := (List.getElem?_eq_some_iff.1 ((s.slotAt_iff j a).1 here)).1
    exact ⟨a, here, same b ((placeAt_set_same inside x).symm.trans there)⟩
  · exact ⟨b, (placeAt_set_other x mine).symm.trans there, rfl⟩

/-- An occupied slot goes on with its command, its tag and its mark. -/
theorem State.updateSlot_gainsNothing {a b : Slot} (here : s.slotAt k = some a) (command : a.command = b.command)
    (tags : b.tags = a.tags) : GainsNothing s (s.setSlot k (some b)) where
  weight f := by
    have moved := State.setSlot_liveWeight f ((s.slotAt_iff k a).1 here) (some b)
    have same : placeWeight f (some b) = placeWeight f (some a) := by simp [placeWeight, tags]
    omega
  fetch := id
  slots := State.setSlot_slots here fun _ put => Option.some.inj put ▸ command

/-- The completions of a slot that ends carry the tags it held (R133, R139). -/
theorem Slot.completions_weight (f : Tag → Bool → Nat) (sl : Slot) (st : Status) :
    ((sl.completions st).map fun c => f c.tag c.accepted).sum = placeWeight f (some sl) := by
  rw [placeWeight_some]
  cases mark : sl.abortedBy <;>
    simp [Slot.completions, mark, Slot.completion, abortCompletion, Completion.plain]

/-- An occupied slot ends: its completions take its tags over, and it empties (R133, R139). -/
theorem State.completeSlot_gainsNothing {a : Slot} (sl : Slot) (st : Status) (here : s.slotAt k = some a)
    (tags : sl.tags = a.tags) : GainsNothing s (((sl.completions st).foldl State.complete s).setSlot k none) := by
  obtain ⟨slots, -⟩ := State.foldl_complete_slots (sl.completions st) s
  have still : ((sl.completions st).foldl State.complete s).slotAt k = some a := by rwa [State.slotAt, slots]
  have tenure (l : List Completion) (u : State) : (l.foldl State.complete u).arbiter = u.arbiter := by
    induction l generalizing u with
    | nil => rfl
    | cons c l ih => exact ih _
  refine ⟨fun f => ?_, fun fetched => ?_, fun j b there => ?_⟩
  · have emptied := State.setSlot_liveWeight f ((State.slotAt_iff _ k a).1 still) none
    have completed := s.foldl_complete_liveWeight f (sl.completions st)
    have same : placeWeight f (some sl) = placeWeight f (some a) := by simp [placeWeight, tags]
    rw [Slot.completions_weight, same] at completed
    rw [placeWeight_none] at emptied
    omega
  · simpa only [State.fetchInTenure, State.setSlot, State.withAdmission_arbiter, tenure] using fetched
  · obtain ⟨c, found, same⟩ := State.setSlot_slots still (by rintro _ ⟨⟩) j b there
    exact ⟨c, by rwa [State.slotAt, slots] at found, same⟩

end

end Sys2Proof.Machine
end

section
/-!
What a happening keeps of the live commands and of the slots (R128, R136): issue, the slots' ends, ABORT, records and
grants, then every command. Settled here: O46 and O48.
-/

namespace Sys2Proof.Machine

/-! ### Conflicts (R136) -/

/-- A host line lies in a command's read or write set. -/
def InSet (line : Nat) (set : Option (Nat × Nat)) : Prop := ∃ r, set = some r ∧ r.1 ≤ line ∧ line < r.1 + r.2

theorem setsMeet_iff (a b : Option (Nat × Nat)) : setsMeet a b = true ↔ ∃ line, InSet line a ∧ InSet line b := by
  rcases a with _ | a
  · simp [setsMeet, InSet]
  · rcases b with _ | b
    · simp [setsMeet, InSet]
    · simp [setsMeet, InSet, rangesMeet_iff]

/-- A conflict is a line in one's write set and in the other's read or write set (R136). -/
theorem SlotCommand.conflicts_iff (a b : SlotCommand) : a.conflicts b = true ↔ ∃ line,
    (InSet line a.writeSet ∧ (InSet line b.readSet ∨ InSet line b.writeSet))
      ∨ (InSet line a.readSet ∧ InSet line b.writeSet) := by
  simp only [SlotCommand.conflicts, Bool.or_eq_true, setsMeet_iff, ← exists_or, ← and_or_left]

theorem SlotCommand.conflicts_comm (a b : SlotCommand) : a.conflicts b = b.conflicts a := by
  rw [Bool.eq_iff_iff, SlotCommand.conflicts_iff, SlotCommand.conflicts_iff]
  exact exists_congr fun line => by tauto

/-- A slot command may issue when a slot is free and no occupied slot conflicts with it (R136). -/
theorem State.slotReady_iff (s : State) (c : SlotCommand) : s.slotReady c = true ↔
    (∃ k < s.admission.slots.length, s.slotAt k = none) ∧ ∀ j sl, s.slotAt j = some sl → sl.command.conflicts c = false := by
  have free : (firstFree s.admission.slots).isSome = true ↔ ∃ k < s.admission.slots.length, s.slotAt k = none := by
    constructor
    · intro place
      obtain ⟨k, first⟩ := Option.isSome_iff_exists.1 place
      exact ⟨k, (List.findIdx?_eq_some_iff_getElem.1 first).1, firstFree_some first⟩
    · rintro ⟨k, inside, empty⟩
      by_contra full
      have none := List.findIdx?_eq_none_iff.1 (Option.not_isSome_iff_eq_none.1 full) _ (List.getElem_mem inside)
      rw [State.slotAt, placeAt, List.getElem?_eq_getElem inside] at empty
      simp_all
  have apart : (s.admission.slots.all fun p => !p.any fun occupant => occupant.command.conflicts c) = true
      ↔ ∀ j sl, s.slotAt j = some sl → sl.command.conflicts c = false := by
    rw [List.all_eq_true]
    constructor
    · intro all j sl here
      simpa using all _ (List.mem_of_getElem? ((s.slotAt_iff j sl).1 here))
    · intro each p inside
      obtain ⟨j, place⟩ := List.mem_iff_getElem?.1 inside
      rcases p with _ | sl
      · rfl
      · simpa using each j sl ((s.slotAt_iff j sl).2 place)
  rw [State.slotReady, Bool.and_eq_true, free, apart]

/-! ### Issue (R134 to R137) -/

section
variable (s : State) (tag : Tag) (c : Command)

/-- The head that issues leaves the channel alone (R134). -/
theorem State.issueCommand_arbiter : (s.issueCommand tag c).arbiter = s.arbiter := by
  cases c with
  | slot c =>
    simp only [State.issueCommand, State.occupySlot]
    split <;> rfl
  | retire frame =>
    simp only [State.issueCommand, State.issueRetire]
    repeat' split
    · rfl
    · rfl
    · exact (State.joinQueue_accounted ..).arbiter
  | install frame spare =>
    simp only [State.issueCommand, State.issueInstall]
    split <;> rfl
  | withdrawSpare spare =>
    simp only [State.issueCommand, State.issueWithdraw]
    split <;> rfl
  | clearSuspect frame =>
    simp only [State.issueCommand, State.issueClearSuspect]
    repeat' split
    all_goals rfl
  | query _ | setRegion _ _ _ _ _ | setPatrol _ _ _ | fence | abort _ => rfl

/-- Only a slot command touches the slots when it issues (R134). -/
theorem State.issueCommand_slots_other (other : ∀ sc, c ≠ .slot sc) :
    (s.issueCommand tag c).admission.slots = s.admission.slots := by
  cases c with
  | slot c => exact absurd rfl (other c)
  | retire frame =>
    simp only [State.issueCommand, State.issueRetire]
    repeat' split
    · rfl
    · rfl
    · exact (State.joinQueue_accounted ..).slots
  | install frame spare =>
    simp only [State.issueCommand, State.issueInstall]
    split <;> rfl
  | withdrawSpare spare =>
    simp only [State.issueCommand, State.issueWithdraw]
    split <;> rfl
  | clearSuspect frame =>
    simp only [State.issueCommand, State.issueClearSuspect]
    repeat' split
    all_goals rfl
  | query _ | setRegion _ _ _ _ _ | setPatrol _ _ _ | fence | abort _ => rfl

variable (f : Tag → Bool → Nat)

/-- Tables with the same Retire Queue and the same migration, and then a completion. -/
theorem State.withTables_complete_liveWeight (x : Tables) (done : Completion)
    (queue : x.retireQueue = s.tables.retireQueue) (migration : x.migration = s.tables.migration) :
    ((s.withTables x).complete done).liveWeight f = s.liveWeight f + f done.tag done.accepted := by
  have same : x.liveWeight f = s.tables.liveWeight f := Tables.liveWeight_congr f queue (migration ▸ rfl)
  rw [State.complete_liveWeight, State.liveWeight, State.withTables_admission, State.withTables_tables, same,
    State.liveWeight]

/-- The head that issues stands live in one place at most: a slot, the Retire Queue or the backlog (R128, R137). -/
theorem State.issueCommand_liveWeight : (s.issueCommand tag c).liveWeight f ≤ s.liveWeight f + f tag true := by
  have completes (done : Completion) (mine : done.tag = tag) (accepted : done.accepted = true) :
      (s.complete done).liveWeight f ≤ s.liveWeight f + f tag true := by
    rw [State.complete_liveWeight, mine, accepted]
  cases c with
  | slot c =>
    simp only [State.issueCommand, State.occupySlot]
    split
    · rename_i k first
      obtain ⟨inside, empty, -⟩ := List.findIdx?_eq_some_iff_getElem.1 first
      have here : s.admission.slots[k]? = some none := by
        rw [List.getElem?_eq_getElem inside, Option.isNone_iff_eq_none.1 empty]
      have taken := State.setSlot_liveWeight f here (some (Slot.taken tag c))
      have held : placeWeight f (some (Slot.taken tag c)) = f tag true := by simp [placeWeight_some, Slot.taken]
      rw [placeWeight_none, held] at taken
      exact taken.le
    · exact Nat.le_add_right ..
  | retire frame =>
    simp only [State.issueCommand, State.issueRetire]
    repeat' split
    · exact completes _ rfl rfl
    · exact completes _ rfl rfl
    · rw [State.joinQueue_liveWeight, Origin.liveWeight_command]
  | install frame spare =>
    simp only [State.issueCommand, State.issueInstall]
    split
    · exact completes _ rfl rfl
    · exact (s.withTables_complete_liveWeight f _ _ rfl rfl).le
  | withdrawSpare spare =>
    simp only [State.issueCommand, State.issueWithdraw]
    split
    · exact (s.withTables_complete_liveWeight f _ _ rfl rfl).le
    · exact completes _ rfl rfl
  | clearSuspect frame =>
    simp only [State.issueCommand, State.issueClearSuspect]
    repeat' split
    · exact completes _ rfl rfl
    · exact completes _ rfl rfl
    · exact (s.withTables_complete_liveWeight f _ _ rfl rfl).le
  | setRegion index valid base exponent attributes => exact (s.withTables_complete_liveWeight f _ _ rfl rfl).le
  | query frame => exact completes _ rfl rfl
  | setPatrol enable interval restart => exact completes _ rfl rfl
  | fence => exact completes _ rfl rfl
  | abort target => exact Nat.le_add_right ..

end

/-- Whether a command may issue is a matter of the slots alone (R134, R136). -/
theorem State.mayIssue_withPendingList (s : State) (l : List PendingCommand) (c : Command) :
    (s.withAdmission { s.admission with pendingList := l }).mayIssue c = s.mayIssue c := by
  cases c <;> rfl

/-- A command that may issue conflicts with no occupied slot, so the slots stay without a conflict (R136). -/
theorem State.SlotsCompatible.issueCommand {s : State} (h : s.SlotsCompatible) (tag : Tag) (c : Command)
    (may : s.mayIssue c = true) : (s.issueCommand tag c).SlotsCompatible := by
  by_cases other : ∀ sc, c ≠ .slot sc
  · have same := s.issueCommand_slots_other tag c other
    intro i j a b apart
    rw [State.slotAt, State.slotAt, same]
    exact h i j a b apart
  · push Not at other
    obtain ⟨sc, rfl⟩ := other
    obtain ⟨-, free⟩ := (s.slotReady_iff sc).1 may
    simp only [State.issueCommand, State.occupySlot]
    split
    · rename_i k first
      have inside := (List.findIdx?_eq_some_iff_getElem.1 first).1
      have taken : (s.setSlot k (some (Slot.taken tag sc))).slotAt k = some (Slot.taken tag sc) := placeAt_set_same inside _
      have others {j : Nat} (other : j ≠ k) : (s.setSlot k (some (Slot.taken tag sc))).slotAt j = s.slotAt j :=
        placeAt_set_other _ other
      intro i j a b apart here there
      by_cases mine : i = k
      · subst mine
        cases taken.symm.trans here
        rw [SlotCommand.conflicts_comm]
        exact free j b (others apart.symm ▸ there)
      · by_cases mine' : j = k
        · subst mine'
          cases taken.symm.trans there
          exact free i a (others mine ▸ here)
        · exact h i j a b apart (others mine ▸ here) (others mine' ▸ there)
    · exact h

/-! ### What a happening keeps -/

/-- `s` stands within a happening that began in `o`: where the live commands of `o` obey R128, those of `s` do, and where no
two occupied slots of `o` conflict, none of `s` do (R136). -/
structure Orderly (o s : State) : Prop where
  live : o.LiveLaws → s.LiveLaws
  compatible : o.SlotsCompatible → s.SlotsCompatible

theorem Orderly.refl (s : State) : Orderly s s := ⟨id, id⟩

section
variable {o s t : State} (h : Orderly o s)
include h

theorem Orderly.gainsNothing (g : GainsNothing s t) : Orderly o t where
  live ho := by
    obtain ⟨tags, bound⟩ := (State.liveLaws_iff s).1 (h.live ho)
    refine (State.liveLaws_iff t).2 ⟨fun tag => (g.weight _).trans (tags tag), ?_⟩
    have lighter := g.weight fun _ _ => 1
    have fetch := g.fetch
    cases before : s.fetchInTenure <;> cases after : t.fetchInTenure <;> simp_all <;> omega
  compatible ho i j a b apart here there := by
    obtain ⟨a', here', same⟩ := g.slots i a here
    obtain ⟨b', there', same'⟩ := g.slots j b there
    rw [← same, ← same']
    exact h.compatible ho i j a' b' apart here' there'

/-- The head issues: it leaves the list for one place (R134, R135). -/
theorem Orderly.issueHead {p : PendingCommand} {rest : List PendingCommand} (list : s.admission.pendingList = p :: rest)
    (may : s.mayIssue p.command = true) :
    Orderly o ((s.withAdmission { s.admission with pendingList := rest }).issueCommand p.tag p.command) where
  live ho := by
    obtain ⟨tags, bound⟩ := (State.liveLaws_iff s).1 (h.live ho)
    have lighter (f) : ((s.withAdmission { s.admission with pendingList := rest }).issueCommand p.tag p.command).liveWeight f
        ≤ s.liveWeight f := by
      have issued := State.issueCommand_liveWeight (s.withAdmission { s.admission with pendingList := rest }) p.tag p.command f
      have left := State.withPendingList_liveWeight f s rest
      rw [list, List.map_cons, List.sum_cons] at left
      omega
    have fetch : ((s.withAdmission { s.admission with pendingList := rest }).issueCommand p.tag p.command).fetchInTenure
        = s.fetchInTenure := by
      rw [State.fetchInTenure, State.issueCommand_arbiter]
      rfl
    exact (State.liveLaws_iff _).2 ⟨fun tag => (lighter _).trans (tags tag), by
      rw [fetch]
      exact (Nat.add_le_add_right (lighter _) _).trans bound⟩
  compatible ho := by
    have before : (s.withAdmission { s.admission with pendingList := rest }).SlotsCompatible := h.compatible ho
    exact before.issueCommand p.tag p.command ((s.mayIssue_withPendingList rest p.command).trans may)

end

theorem issueFrom_orderly {o : State} (l : List PendingCommand) {s : State} (h : Orderly o s)
    (list : s.admission.pendingList = l) : Orderly o (issueFrom l s) := by
  induction l generalizing s with
  | nil => exact h
  | cons p rest ih =>
    unfold issueFrom
    split
    · rename_i issues
      exact ih (h.issueHead list issues.2) (State.issueCommand_slots ..).1
    · exact h

section
variable {o s t : State} (h : Orderly o s)
include h

/-- The head judged for issue (R135), however many commands issue. -/
theorem Orderly.issueAll : Orderly o s.issueAll := issueFrom_orderly _ h rfl

/-- A slot ends with its completions (R133, R139). -/
theorem Orderly.endSlot {k : Nat} {a : Slot} (sl : Slot) (st : Status) (here : s.slotAt k = some a)
    (tags : sl.tags = a.tags) : Orderly o (s.endSlot k sl st) :=
  (h.gainsNothing (State.completeSlot_gainsNothing sl st here tags)).issueAll

end

theorem Slot.advance_tags (sl : Slot) (rs : List WordReport) : ((sl.count rs).advance rs).tags = sl.tags := by
  unfold Slot.advance
  split <;> rfl

/-- The end of a slot's tenure (R139). -/
theorem Orderly.endSlotTenure {o s : State} (h : Orderly o s) {k : Nat} {sl : Slot} (line : Nat) (rs : List WordReport)
    (here : s.slotAt k = some sl) : Orderly o (s.endSlotTenure k sl line rs) := by
  have handed := h.gainsNothing (s.handWords_gainsNothing sl.command.source (some sl.tag) line rs)
  have still : (s.handWords sl.command.source (some sl.tag) line rs).slotAt k = some sl := by
    rwa [State.slotAt, (State.handWords_accounted ..).slots]
  have tags := sl.advance_tags rs
  have command : sl.command = ((sl.count rs).advance rs).command := (Slot.advance_command (sl.count rs) rs).symm
  unfold State.endSlotTenure
  dsimp only
  repeat' split
  · exact handed.endSlot _ _ still tags
  · exact handed.endSlot _ _ still tags
  · exact handed.gainsNothing (State.updateSlot_gainsNothing still command tags)
  · exact handed.gainsNothing (State.updateSlot_gainsNothing still command tags)

/-! ### A record becomes live (R128, R131) -/

/-- From `s` to `t` one record becomes live, accepted or refused; a slot that is occupied in `t` was occupied in `s`, by the
same command. -/
structure GainsOne (tag : Tag) (accepted : Bool) (s t : State) : Prop where
  weight : ∀ f, t.liveWeight f ≤ s.liveWeight f + f tag accepted
  fetch : t.fetchInTenure = true → s.fetchInTenure = true
  slots : ∀ k b, t.slotAt k = some b → ∃ a, s.slotAt k = some a ∧ a.command = b.command

section
variable {s t u : State} {tag : Tag} {accepted : Bool}

theorem GainsOne.trans (h : GainsOne tag accepted s t) (k : GainsNothing t u) : GainsOne tag accepted s u where
  weight f := (k.weight f).trans (h.weight f)
  fetch := h.fetch ∘ k.fetch
  slots j c here := by
    obtain ⟨b, here, same⟩ := k.slots j c here
    obtain ⟨a, here, same'⟩ := h.slots j b here
    exact ⟨a, here, same'.trans same⟩

/-- A completion joins the backlog after nothing became live. -/
theorem GainsNothing.complete (h : GainsNothing s t) (c : Completion) (mine : c.tag = tag) (judged : c.accepted = accepted) :
    GainsOne tag accepted s (t.complete c) where
  weight f := by
    rw [State.complete_liveWeight, mine, judged]
    exact Nat.add_le_add_right (h.weight f) _
  fetch := h.fetch
  slots := h.slots

theorem State.abortTarget_pending {target : Tag} {p : PendingCommand} (found : s.abortTarget target = .pending p) :
    p ∈ s.admission.pendingList := by
  unfold State.abortTarget State.workingRetire at found
  repeat' split at found
  all_goals cases found
  exact List.mem_of_find?_eq_some (by assumption)

theorem State.abortTarget_queued {target : Tag} {r : RetireRequest} (found : s.abortTarget target = .queued r) :
    r ∈ s.tables.retireQueue := by
  unfold State.abortTarget State.workingRetire at found
  repeat' split at found
  all_goals cases found
  exact List.mem_of_find?_eq_some (by assumption)

/-- A pending target leaves the list for the backlog (R132). -/
theorem State.abortPending_gainsNothing {p : PendingCommand} (pending : p ∈ s.admission.pendingList) :
    GainsNothing s (s.abortPending p) := by
  refine .of_weight (fun f => ?_) rfl rfl
  have fewer := sum_map_filter_add_le (fun p => f p.tag true) (fun q => !(q.tag == p.tag)) _ p pending (by simp)
  have left := State.withPendingList_liveWeight f s (s.admission.pendingList.filter fun q => !(q.tag == p.tag))
  simp only [State.abortPending, State.complete_liveWeight, Completion.plain] at left ⊢
  omega

/-- A slot target leaves its slot for the backlog (R133). -/
theorem State.abortWaitingSlot_gainsNothing {k : Nat} {sl : Slot} (here : s.slotAt k = some sl) :
    GainsNothing s (s.abortWaitingSlot k sl) where
  weight f := by
    have emptied := State.setSlot_liveWeight (s := s.complete (sl.completion .aborted)) f ((s.slotAt_iff k sl).1 here) none
    rw [State.complete_liveWeight, placeWeight_none, placeWeight_some] at emptied
    have mine : f (sl.completion .aborted).tag (sl.completion .aborted).accepted = f sl.tag true := rfl
    rw [State.abortWaitingSlot]
    omega
  fetch := id
  slots := State.setSlot_slots (s := s.complete (sl.completion .aborted)) here (by rintro _ ⟨⟩)

/-- A slot target in its tenure is marked, and holds the ABORT's tag (R133). -/
theorem State.markSlot_gainsOne {k : Nat} {sl : Slot} (here : s.slotAt k = some sl) (tag : Tag) :
    GainsOne tag true s (s.setSlot k (some { sl with abortedBy := some tag })) where
  weight f := by
    have marked := State.setSlot_liveWeight f ((s.slotAt_iff k sl).1 here) (some { sl with abortedBy := some tag })
    simp only [placeWeight_some, Option.toList_some, List.map_cons, List.map_nil, List.sum_cons, List.sum_nil] at marked
    omega
  fetch := id
  slots := State.setSlot_slots here fun _ put => Option.some.inj put ▸ rfl

end

section
variable {o s t : State} (h : Orderly o s)
include h

/-- A record becomes live where fewer than 32 commands are, its tag fresh if it is accepted (R128, R131). -/
theorem Orderly.gainsOne {tag : Tag} {accepted : Bool} (g : GainsOne tag accepted s t)
    (fresh : accepted = true → tag ∉ s.tagSet) (room : o.LiveLaws → s.liveCount < 32) (noFetch : s.fetchInTenure = false) :
    Orderly o t where
  live ho := by
    obtain ⟨tags, -⟩ := (State.liveLaws_iff s).1 (h.live ho)
    have below := room ho
    rw [State.liveCount_eq_liveWeight] at below
    refine (State.liveLaws_iff t).2 ⟨fun other => (g.weight _).trans ?_, ?_⟩
    · by_cases mine : accepted = true ∧ tag = other
      · obtain ⟨rfl, rfl⟩ := mine
        have none : s.liveWeight (countsTag tag) = 0 := by
          rw [← State.count_tagSet_eq_liveWeight]
          exact List.count_eq_zero.2 (fresh rfl)
        simp [none, countsTag]
      · have zero : countsTag other tag accepted = 0 := by simpa [countsTag] using mine
        rw [zero]
        exact tags other
    · have noFetch' : t.fetchInTenure = false := Bool.eq_false_iff.2 fun fetched => by simp [g.fetch fetched] at noFetch
      have one := g.weight fun _ _ => 1
      simp only [noFetch', Bool.false_eq_true, if_false]
      omega
  compatible ho i j a b apart here there := by
    obtain ⟨a', here', same⟩ := g.slots i a here
    obtain ⟨b', there', same'⟩ := g.slots j b there
    rw [← same, ← same']
    exact h.compatible ho i j a' b' apart here' there'

variable (room : o.LiveLaws → s.liveCount < 32) (noFetch : s.fetchInTenure = false)
include room noFetch

/-- An ABORT that is let in is carried out (R132, R133). -/
theorem Orderly.abort {tag : Tag} (target : Tag) (fresh : tag ∉ s.tagSet) : Orderly o (s.abort tag target) := by
  have enters {u : State} (g : GainsOne tag true s u) : Orderly o u := h.gainsOne g (fun _ => fresh) room noFetch
  unfold State.abort
  split
  · rename_i p found
    exact (enters ((State.abortPending_gainsNothing (State.abortTarget_pending found)).complete _ rfl rfl)).issueAll
  · rename_i k sl found
    have here := s.abortTarget_slot target k sl found
    split
    · exact enters (State.markSlot_gainsOne here tag)
    · exact (enters ((State.abortWaitingSlot_gainsNothing here).complete _ rfl rfl)).issueAll
  · rename_i r found
    exact (enters ((State.abortQueued_gainsNothing (State.abortTarget_queued found)).complete _ rfl rfl)).issueAll
  · rename_i m found
    have completed := (State.abortMigration_gainsNothing (s.abortTarget_migrating target m found)).complete
      (abortCompletion tag .success) rfl rfl
    exact (enters (completed.trans (State.startMigrations_gainsNothing _))).issueAll
  · exact (enters ((GainsNothing.refl s).complete _ rfl rfl)).issueAll

/-- A record judged, and refused, carried out or admitted (R131). -/
theorem Orderly.takeRecord (r : CommandRecord) : Orderly o (s.takeRecord r) := by
  have fresh {c : Command} (admitted : s.judge r = .inr c) : r.tag ∉ s.tagSet := by
    unfold State.judge at admitted
    repeat' split at admitted
    all_goals cases admitted
    assumption
  unfold State.takeRecord
  split
  · exact h.gainsOne ((GainsNothing.refl s).complete _ rfl rfl) (by rintro ⟨⟩) room noFetch
  · rename_i target admitted
    exact h.abort room noFetch target (fresh admitted)
  · rename_i c _ admitted
    have joins : GainsOne r.tag true s (s.withAdmission { s.admission with
        pendingList := s.admission.pendingList ++ [⟨r.tag, c⟩] }) :=
      { weight := fun f => by
          have joined := State.withPendingList_liveWeight f s (s.admission.pendingList ++ [⟨r.tag, c⟩])
          simp only [List.map_append, List.sum_append, List.map_cons, List.map_nil, List.sum_cons, List.sum_nil] at joined ⊢
          omega
        fetch := id
        slots := fun k b here => ⟨b, here, rfl⟩ }
    exact (h.gainsOne joins (fun _ => fresh admitted) room noFetch).issueAll

end

/-! ### The end of a happening -/

section
variable {o s : State} (h : Orderly o s)
include h

/-- A tenure that is no fetch begins. -/
theorem Orderly.beginTenure {work : Work} (line : Nat) (e : TenureEffect) (noFetch : work ≠ .fetch) :
    Orderly o (s.beginTenure work line e) :=
  h.gainsNothing (.of_noFetch rfl rfl (by simp [State.fetchInTenure, State.beginTenure, noFetch]))

theorem Orderly.grantPort : Orderly o s.grantPort := by
  unfold State.grantPort
  split
  · exact h.beginTenure _ _ (by rintro ⟨⟩)
  · exact h.beginTenure _ _ (by rintro ⟨⟩)
  · exact h

theorem Orderly.grantMigration : Orderly o s.grantMigration := by
  unfold State.grantMigration
  split
  · rename_i m copying
    exact (h.beginTenure _ _ (by rintro ⟨⟩)).gainsNothing (State.withRecord_gainsNothing copying rfl)
  · exact h

/-- A post frees the head's place in the backlog (R119, R128). -/
theorem Orderly.postCompletion {r : Rings} {c : Completion} {rest : List Completion}
    (backlog : s.admission.backlog = c :: rest) : Orderly o (s.postCompletion r c rest) := by
  have posted {work : Work} (line : Nat) (e : TenureEffect) : GainsNothing (s.beginTenure work line e)
      ((s.beginTenure work line e).withAdmission { s.admission with backlog := rest }) := by
    refine State.withAdmission_gainsNothing _ _ (fun f => ?_) rfl
    have same : (s.beginTenure work line e).admission = s.admission := rfl
    simp only [Admission.liveWeight, same, backlog, List.map_cons, List.sum_cons]
    omega
  exact ((h.beginTenure _ _ (by rintro ⟨⟩)).gainsNothing (posted ..)).gainsNothing (.of_groups rfl rfl rfl)

theorem Orderly.postEvent {r : Rings} {e : EventRecord} {rest : List EventRecord} : Orderly o (s.postEvent r e rest) :=
  (h.beginTenure _ _ (by rintro ⟨⟩)).gainsNothing (.of_groups rfl rfl rfl)

/-- A fetch begins where fewer than 32 commands are live, so its record has its place (R128, R129). -/
theorem Orderly.beginFetch (line : Nat) (e : TenureEffect) (room : s.liveCount < 32) :
    Orderly o (s.beginTenure .fetch line e) where
  live ho := ⟨(h.live ho).tags, by
    rw [State.LiveBounded]
    have same : (s.beginTenure .fetch line e).liveCount = s.liveCount := rfl
    split <;> omega⟩
  compatible := h.compatible

theorem Orderly.grantRing : Orderly o s.grantRing := by
  unfold State.grantRing
  split
  · exact (h.beginTenure _ _ (by rintro ⟨⟩)).gainsNothing (.of_groups rfl rfl rfl)
  · rename_i presented
    exact h.postCompletion (s.ringWork_from _ presented).2
  · exact h.postEvent
  · rename_i r presented
    obtain ⟨-, ready⟩ := s.ringWork_from _ presented
    simp only [State.fetchReady, Bool.and_eq_true, decide_eq_true_eq] at ready
    obtain ⟨⟨-, room⟩, -⟩ := ready
    exact h.beginFetch _ _ room
  · exact h

theorem Orderly.grantSlot (k : Nat) : Orderly o (s.grantSlot k) := by
  unfold State.grantSlot
  split
  · rename_i sl here
    exact (h.beginTenure _ _ (by rintro ⟨⟩)).gainsNothing
      (State.updateSlot_gainsNothing (s := s.beginTenure (.slotStep k) _ _) here rfl rfl)
  · exact h

theorem Orderly.grantPatrol : Orderly o s.grantPatrol := by
  unfold State.grantPatrol
  split
  · exact (h.beginTenure _ _ (by rintro ⟨⟩)).gainsNothing (.of_groups rfl rfl rfl)
  all_goals exact h

/-- A grant (R22, R25). -/
theorem Orderly.grant (r : Requester) : Orderly o (s.grant r) := by
  cases r with
  | port => exact h.grantPort
  | migration => exact h.grantMigration
  | ring => exact h.grantRing
  | slot k => exact h.grantSlot k
  | patrol => exact h.grantPatrol

end

theorem arbitrateFrom_orderly {o : State} (n : Nat) {s : State} (h : Orderly o s) : Orderly o (arbitrateFrom n s) := by
  induction n generalizing s with
  | zero => exact h
  | succ n ih =>
    unfold arbitrateFrom
    repeat' split
    · exact h
    · exact h
    · rename_i r _ _ k sl refused
      have noted : Orderly o (s.noteGrant r) := h.gainsNothing (.of_groups rfl rfl rfl)
      exact ih (noted.endSlot sl .lineProtected (s.refusedSlot_occupied r k sl refused) rfl)
    · rename_i r _ _ _
      have noted : Orderly o (s.noteGrant r) := h.gainsNothing (.of_groups rfl rfl rfl)
      exact noted.grant r

/-- The end of a happening: the grants (R22), the QUIESCED test (R116), ATTN (R126). -/
theorem Orderly.conclude {o s : State} (h : Orderly o s) : Orderly o s.conclude :=
  ((arbitrateFrom_orderly _ h).gainsNothing (State.quiesceTest_gainsNothing _)).gainsNothing (.of_groups rfl rfl rfl)

/-! ### One command -/

section
variable {s t : State}

theorem GainsNothing.orderly (g : GainsNothing s t) : Orderly s t := (Orderly.refl s).gainsNothing g

theorem Orderly.takeRead (line : Nat) (mask : BitVec 8) : Orderly s (s.takeRead line mask) := by
  unfold State.takeRead
  repeat' split
  · exact (s.respond_gainsNothing ..).orderly
  · exact (s.respond_gainsNothing ..).orderly
  · exact (s.hold_gainsNothing _).orderly.conclude

theorem Orderly.takeWrite (line : Nat) (mask : BitVec 64) (data : BitVec 512) : Orderly s (s.takeWrite line mask data) := by
  unfold State.takeWrite
  repeat' split
  · exact (s.respond_gainsNothing ..).orderly
  · exact (s.respond_gainsNothing ..).orderly
  · exact (s.presentWrite_gainsNothing _).orderly.conclude

theorem Orderly.postRegister (target : PostedRegister) (v : BitVec 32) : Orderly s (s.postRegister target v) :=
  (s.presentWrite_gainsNothing _).orderly.conclude

theorem Orderly.acceptCqHead (v : BitVec 32) : Orderly s (s.acceptCqHead v) :=
  ((s.respond_gainsNothing ..).trans (State.writeCqHead_gainsNothing ..)).orderly.conclude

theorem Orderly.acceptEqHead (v : BitVec 32) : Orderly s (s.acceptEqHead v) :=
  ((s.respond_gainsNothing ..).trans (State.writeEqHead_gainsNothing ..)).orderly.conclude

theorem Orderly.acceptAnchorWrite (v : BitVec 32) : Orderly s (s.acceptAnchorWrite v) :=
  GainsNothing.orderly (.of_groups rfl rfl rfl)

theorem Orderly.acceptFaultInfo (v : BitVec 32) : Orderly s (s.acceptFaultInfo v) := by
  unfold State.acceptFaultInfo
  split <;> exact GainsNothing.orderly (.of_groups rfl rfl rfl)

/-- A register write by offset (R40). -/
theorem Orderly.writeRegister (offset : Nat) (v : BitVec 32) : Orderly s (s.writeRegister offset v) := by
  unfold State.writeRegister
  repeat' split
  · exact .postRegister ..
  · exact .acceptAnchorWrite v
  · exact .postRegister ..
  · exact .acceptCqHead v
  · exact .acceptEqHead v
  · exact .acceptFaultInfo v
  · exact (s.respond_gainsNothing ..).orderly

/-- A host request: the port takes it, or nothing happens (R1, R28). -/
theorem Orderly.hostRequest {f : State → State} (run : s.hostRequest f = .next t) (taken : Orderly s (f s)) :
    Orderly s t := by
  cases run
  split
  · exact taken
  · exact .refl s

/-- The end of a tenure of the engine's: its requester takes the reports, unless they are discarded (R17, R18). -/
theorem Orderly.endTenure {f : Work → Bool} {take : Tenure → State → State} (run : s.endTenure f take = .next t)
    (taken : ∀ x, s.arbiter.tenure = some x → f x.work = true → x.discarded = false → Orderly s (take x s.freeChannel)) :
    Orderly s t := by
  unfold State.endTenure at run
  split at run
  · rename_i x ending
    obtain ⟨-, tenure, work⟩ := State.ending_some ending
    cases run
    split
    · exact s.freeChannel_gainsNothing.orderly.conclude
    · rename_i wanted
      exact (taken x tenure work (by simpa using wanted)).conclude
  · cases run
    exact .refl s

/-- A fetch in tenure has its record's place among the 32 live commands kept (R128, R129). -/
theorem State.LiveLaws.room_of_fetch (h : s.LiveLaws) (fetched : s.fetchInTenure = true) : s.liveCount < 32 := by
  have bound := h.bounded
  rw [State.LiveBounded, if_pos fetched] at bound
  omega

/-- The end of a fetch (R130): its record takes the place kept for it. -/
theorem Orderly.endFetch (line : Nat) (rs : List WordReport) (fetched : s.fetchInTenure = true) :
    Orderly s (s.freeChannel.endFetch line rs) := by
  have advanced : GainsNothing s s.freeChannel.advanceFetch := .of_noFetch rfl rfl rfl
  have handed := advanced.trans (State.handWords_gainsNothing _ .fetch none line rs)
  have accounted := State.handWords_accounted s.freeChannel.advanceFetch .fetch none line rs
  unfold State.endFetch
  dsimp only
  repeat' split
  · exact (handed.trans (State.halt_gainsNothing ..)).orderly
  · refine handed.orderly.takeRecord (fun ho => ?_) (by rw [State.fetchInTenure, accounted.arbiter]; rfl) _
    have lighter := handed.weight fun _ _ => 1
    rw [← State.liveCount_eq_liveWeight, ← State.liveCount_eq_liveWeight] at lighter
    exact lighter.trans_lt (ho.room_of_fetch fetched)
  · exact handed.orderly

theorem Orderly.takeSlotTenure (x : Tenure) : Orderly s (State.takeSlotTenure x s.freeChannel) := by
  unfold State.takeSlotTenure
  repeat' split
  · rename_i sl here
    exact s.freeChannel_gainsNothing.orderly.endSlotTenure _ _ here
  all_goals exact s.freeChannel_gainsNothing.orderly

/-- A record presented finds room among the live commands, or nothing happens (R129, log 7). -/
theorem Orderly.presentRecord {tag : Tag} {c : Command} (run : s.presentRecord tag c = .next t) : Orderly s t := by
  cases run
  split
  · rename_i admits
    simp only [State.admits, Bool.and_eq_true, Bool.not_eq_true', decide_eq_true_eq] at admits
    obtain ⟨⟨-, room⟩, noFetch⟩ := admits
    exact ((Orderly.refl s).takeRecord (fun _ => room) noFetch _).conclude
  · exact .refl s

/-- Every command that goes on keeps R128's laws and R136's. -/
theorem Orderly.of_exec {c : Instr} (run : exec c s = .next t) : Orderly s t := by
  cases c with
  | deviceReset powerOn =>
    cases run
    exact GainsNothing.orderly (.of_empty (fun _ => rfl) State.slotAt_reset rfl)
  | deviceResetRelease size spare =>
    cases run
    split
    · exact GainsNothing.orderly (.of_tables rfl rfl rfl rfl)
    · exact .refl s
  | disturbance frame line word change =>
    simp only [exec, execDisturbance] at run
    split at run
    · cases run
      exact GainsNothing.orderly (.of_groups rfl rfl rfl)
    · cases run
  | hostRead line mask => exact .hostRequest (f := (·.takeRead line.toNat mask)) run (.takeRead ..)
  | hostWrite line mask data => exact .hostRequest (f := (·.takeWrite line.toNat mask data)) run (.takeWrite ..)
  | start _ | quiesce _ | engineReset _ | enableBits _ | sqTail _ =>
    simp only [exec, execStart, execQuiesce, execEngineReset, execEnableBits, execSqTail] at run
    exact .hostRequest run (.postRegister ..)
  | cqHead v => exact .hostRequest (f := (·.acceptCqHead v)) run (.acceptCqHead v)
  | eqHead v => exact .hostRequest (f := (·.acceptEqHead v)) run (.acceptEqHead v)
  | anchor v => exact .hostRequest (f := (·.acceptAnchorWrite v)) run (.acceptAnchorWrite v)
  | faultInfoClear v =>
    exact .hostRequest (f := (·.acceptFaultInfo (v ||| 0x80000000#32))) run (.acceptFaultInfo _)
  | registerWriteOther offset v => exact .hostRequest (f := (·.writeRegister offset v)) run (.writeRegister offset v)
  | hostReadEnd =>
    simp only [exec, execHostReadEnd] at run
    split at run <;> cases run
    · exact (s.endHostRead_gainsNothing _).orderly.conclude
    · exact .refl s
  | drainEnd =>
    simp only [exec, execDrainEnd] at run
    split at run <;> cases run
    · exact (s.endDrain_gainsNothing _).orderly.conclude
    · exact .refl s
  | anchorReadEnd =>
    exact .endTenure (take := fun x s => s.endAnchorRead x.line x.reports) run fun _ _ _ _ =>
      (s.freeChannel_gainsNothing.trans (State.endAnchorRead_gainsNothing ..)).orderly
  | fetchEnd =>
    refine .endTenure (take := fun x s => s.endFetch x.line x.reports) run fun x tenure work wanted => .endFetch _ _ ?_
    exact (State.fetchInTenure_iff s).2 ⟨x, tenure, by simpa using work, wanted⟩
  | ringPostEnd => exact .endTenure (take := fun _ s => s) run fun _ _ _ _ => s.freeChannel_gainsNothing.orderly
  | copyStepEnd =>
    exact .endTenure (take := State.takeCopyStep) run fun x _ _ _ =>
      (s.freeChannel_gainsNothing.trans (State.takeCopyStep_gainsNothing x)).orderly
  | slotTenureEnd => exact .endTenure (take := State.takeSlotTenure) run fun x _ _ _ => .takeSlotTenure x
  | patrolTenureEnd =>
    exact .endTenure (take := State.takePatrolTenure) run fun x _ _ _ =>
      (s.freeChannel_gainsNothing.trans (State.takePatrolTenure_gainsNothing _ x)).orderly
  | patrolExpiry =>
    cases run
    split
    · exact s.expire_gainsNothing.orderly.conclude
    · exact .refl s
  | scrub _ _ _ _ | verify _ _ _ | fill _ _ _ _ | copy _ _ _ _ | retire _ _ | install _ _ _ | withdrawSpare _ _
  | query _ _ | clearSuspect _ _ | setRegion _ _ _ _ _ _ | setPatrol _ _ _ _ | fence _ | abort _ _ =>
    exact .presentRecord run

/-- A step takes the front command off its queue and runs it, or idles (log 9). -/
theorem Orderly.of_step (stepped : step s = .next t) : Orderly s t := by
  unfold step at stepped
  split at stepped
  · cases stepped
    exact .refl s
  · rename_i c rest _
    have ran := Orderly.of_exec stepped
    exact ⟨fun before => ran.live { before with }, ran.compatible⟩

end

/-! ### What is live (R128) -/

theorem Origin.mem_tags {o : Origin} {tag : Tag} : tag ∈ o.tags ↔ o = .command tag := by
  cases o <;> simp [Origin.tags, eq_comm]

/-- The tag set holds the tags of the accepted live commands, place by place (R128). -/
theorem State.mem_tagSet (s : State) (tag : Tag) : tag ∈ s.tagSet ↔ (∃ p ∈ s.admission.pendingList, p.tag = tag)
    ∨ (∃ sl, some sl ∈ s.admission.slots ∧ (sl.tag = tag ∨ sl.abortedBy = some tag))
    ∨ (∃ r ∈ s.tables.retireQueue, r.origin = .command tag)
    ∨ (∃ m, s.tables.migration = some m ∧ m.origin = .command tag)
    ∨ (∃ c ∈ s.admission.backlog, c.accepted = true ∧ c.tag = tag) := by
  have slots : tag ∈ (s.admission.slots.flatMap (·.toList)).flatMap (·.tags)
      ↔ ∃ sl, some sl ∈ s.admission.slots ∧ (sl.tag = tag ∨ sl.abortedBy = some tag) := by
    simp [Slot.tags, eq_comm]
  have retires : tag ∈ s.tables.retireTags ↔ (∃ r ∈ s.tables.retireQueue, r.origin = .command tag)
      ∨ ∃ m, s.tables.migration = some m ∧ m.origin = .command tag := by
    simp [Tables.retireTags, Origin.mem_tags]
  simp only [State.tagSet, List.mem_append, slots, retires, List.mem_map, List.mem_filter, or_assoc, and_assoc]

/-- The tags of some origins are as many as the commanded ones among them. -/
theorem length_flatMap_tags {α : Type} (l : List α) (origin : α → Origin) :
    (l.flatMap fun a => (origin a).tags).length = (l.filter fun a => origin a != .auto).length := by
  induction l with
  | nil => rfl
  | cons a l ih => cases own : origin a <;> rw [List.flatMap_cons, List.length_append, ih] <;> simp [own, Origin.tags, Nat.add_comm]

/-- The live count, place by place (R128). -/
theorem State.liveCount_eq_places (s : State) : s.liveCount = s.admission.pendingList.length
    + (s.admission.slots.map fun p => match p with
        | none => 0
        | some sl => if sl.abortedBy.isSome then 2 else 1).sum
    + (s.tables.retireQueue.filter fun r => r.origin != .auto).length
    + (s.tables.migration.toList.filter fun m => m.origin != .auto).length + s.admission.backlog.length := by
  have slots (l : List (Option Slot)) : ((l.flatMap (·.toList)).flatMap (·.tags)).length = (l.map fun p => match p with
      | none => 0
      | some sl => if sl.abortedBy.isSome then 2 else 1).sum := by
    induction l with
    | nil => rfl
    | cons p l ih =>
      rcases p with _ | sl
      · simpa using ih
      · rw [List.flatMap_cons, List.flatMap_append, List.length_append, ih]
        cases mark : sl.abortedBy <;> simp [Slot.tags, mark]
  have retires : s.tables.retireTags.length = (s.tables.retireQueue.filter fun r => r.origin != .auto).length
      + (s.tables.migration.toList.filter fun m => m.origin != .auto).length := by
    rw [Tables.retireTags, List.length_append, length_flatMap_tags, length_flatMap_tags]
  rw [State.liveCount, slots, retires]
  omega

/-- Settles O46: a happening moves a live command from place to place, ends it, or takes in one that has room and a fresh
tag. -/
theorem stepsKeepTagsDistinctAndLiveBound : Obligations.StepsKeepTagsDistinctAndLiveBound :=
  ⟨fun _ _ before stepped => (Orderly.of_step stepped).live before, State.mem_tagSet, State.liveCount_eq_places⟩

/-- Settles O48: a slot keeps its command while it is occupied, and is taken by a command that conflicts with no other. -/
theorem occupiedSlotsNeverConflict : Obligations.OccupiedSlotsNeverConflict := by
  refine ⟨SlotCommand.conflicts_iff, fun c => ?_, fun _ _ before stepped => (Orderly.of_step stepped).compatible before⟩
  cases c <;> rfl

end Sys2Proof.Machine
end


section
/-!
The end of a slot's tenure (R133, R139, R146, R147, R153). Settled here: O51.
-/

namespace Sys2Proof.Machine

/-- Completions join the backlog in their order (R141). -/
theorem State.foldl_complete_eq (l : List Completion) (s : State) :
    l.foldl State.complete s = s.withAdmission { s.admission with backlog := s.admission.backlog ++ l } := by
  induction l generalizing s with
  | nil =>
    rw [List.append_nil]
    rfl
  | cons c l ih => simp [ih, State.complete]

/-- A slot that ends empties, its completions join the backlog, and the head is judged for issue (R133, R139). -/
theorem State.endSlot_eq (s : State) (k : Nat) (sl : Slot) (st : Status) : s.endSlot k sl st
    = (s.withAdmission { s.admission with
        slots := s.admission.slots.set k none, backlog := s.admission.backlog ++ sl.completions st }).issueAll := by
  rw [State.endSlot, State.foldl_complete_eq]
  rfl

/-- The slot of the tenure in progress takes its reports (R139). -/
theorem exec_slotTenureEnd {s : State} {k line : Nat} {sl : Slot} {reports : List WordReport}
    (live : s.resetAsserted = false) (tenure : s.arbiter.tenure = some ⟨.slotStep k, line, reports, false⟩)
    (here : s.slotAt k = some sl) :
    exec .slotTenureEnd s = .next (s.freeChannel.endSlotTenure k sl line reports).conclude := by
  have still : s.freeChannel.slotAt k = some sl := here
  have ending : s.ending (·.slot?.isSome) = some ⟨.slotStep k, line, reports, false⟩ :=
    State.ending_of_tenure live tenure rfl
  simp only [exec, execSlotTenureEnd, State.endTenure, ending, State.takeSlotTenure]
  simp only [Work.slot?, still, Bool.false_eq_true, if_false]

section
variable (s : State) (k line : Nat) (sl : Slot) (reports : List WordReport)

/-- What becomes of a slot after its tenure, by its mark and its progress (R133, R139). -/
theorem State.endSlotTenure_eq : s.endSlotTenure k sl line reports =
    let u := reports.foldl (handedOn sl.command.source (some sl.tag) line) s
    let sl' := (sl.count reports).advance reports
    if sl'.abortedBy.isSome then u.endSlot k sl' .aborted
    else if sl'.command.length ≤ sl'.progress then u.endSlot k sl' sl'.endStatus
    else u.setSlot k (some { sl' with phase := if u.engine.state = .halted then .held else .waiting }) := by
  unfold State.endSlotTenure
  rw [State.handWords_eq]
  dsimp only
  congr 2
  split <;> rfl

/-- A count rises by the words whose decode is of its class, and saturates (R146). -/
theorem saturate_countReports {g : WordReport → Bool} {f : DecodeClass → Bool}
    (same : ∀ r, g r = r.decoded.any fun d => f d.1) (count : Nat) : saturate (count + countReports g reports)
      = min 65535 (count + (reports.filter fun r : WordReport => r.decoded.any fun d => f d.1).length) := by
  rw [saturate, countReports, funext same]

end

/-! ### The class of a report's decode (R146) -/

section
variable (r : WordReport)

theorem WordReport.isCorrected_eq :
    r.isCorrected = r.decoded.any fun d => (fun | .corrected _ => true | _ => false : DecodeClass → Bool) d.1 := by
  rcases r with ⟨_, _ | ⟨_ | _ | _ | _, _⟩, _⟩ <;> rfl

theorem WordReport.isUncorrectable_eq : r.isUncorrectable = r.decoded.any (·.1 == .uncorrectable) := by
  rcases r with ⟨_, _ | ⟨_ | _ | _ | _, _⟩, _⟩ <;> rfl

theorem WordReport.isPoisoned_eq : r.isPoisoned = r.decoded.any (·.1 == .poisoned) := by
  rcases r with ⟨_, _ | ⟨_ | _ | _ | _, _⟩, _⟩ <;> rfl

end

section
variable (sl : Slot) (rs : List WordReport)

/-- A tenure moves a slot's progress and its held line alone (R139, R153). -/
theorem Slot.advance_eq : sl.advance rs
    = { sl with progress := (sl.advance rs).progress, heldLine := (sl.advance rs).heldLine } := by
  unfold Slot.advance
  split <;> rfl

theorem Slot.advance_abortedBy : (sl.advance rs).abortedBy = sl.abortedBy := by rw [Slot.advance_eq]

/-- A completion carries the slot's counts as they stood before, and the progress as it is (R142). -/
theorem Slot.advance_completion (st : Status) :
    (sl.advance rs).completion st = { sl.completion st with linesDone := (sl.advance rs).progress } :=
  congrArg (·.completion st) (sl.advance_eq rs)

theorem Slot.advance_endStatus : (sl.advance rs).endStatus = sl.endStatus := by
  rw [Slot.advance_eq]
  rfl

/-- A command that met a lost word ends with DATA_ERRORS, but FILL (R147). -/
theorem Slot.endStatus_eq : sl.endStatus = match sl.command with
    | .fill _ _ _ => .success
    | _ => if sl.uncorrectable + sl.poisoned = 0 then .success else .dataErrors := by
  unfold Slot.endStatus
  cases sl.command <;> simp only [Nat.pos_iff_ne_zero, ne_eq, ite_not]

end

/-- Settles O51: the reports are counted and handed on, and the slot's mark and progress decide what becomes of it. -/
theorem slotTenureEndStepsOrCompletes : Obligations.SlotTenureEndStepsOrCompletes := by
  intro s k line sl reports live tenure here _ source length free u raised corrected uncorrectable poisoned counted sl' ended
    report
  have sources : sl.command.source = source := by cases command : sl.command <;> simp [source, command, SlotCommand.source]
  have lengths : sl.command.length = length := by cases command : sl.command <;> simp [length, command, SlotCommand.length]
  have isCorrected : saturate (sl.corrected + countReports WordReport.isCorrected reports) = corrected :=
    saturate_countReports (f := fun | .corrected _ => true | _ => false) reports WordReport.isCorrected_eq sl.corrected
  have isUncorrectable : saturate (sl.uncorrectable + countReports WordReport.isUncorrectable reports) = uncorrectable :=
    saturate_countReports (f := (· == .uncorrectable)) reports WordReport.isUncorrectable_eq sl.uncorrectable
  have isPoisoned : saturate (sl.poisoned + countReports WordReport.isPoisoned reports) = poisoned :=
    saturate_countReports (f := (· == .poisoned)) reports WordReport.isPoisoned_eq sl.poisoned
  have isCounted : sl.count reports = counted := by
    rw [Slot.count, isCorrected, isUncorrectable, isPoisoned]
  have isNext : counted.advance reports = sl' := by
    rcases sl with ⟨_, _ | _ | _ | _, _, _, _, _, _ | _, _, _⟩ <;> rfl
  have mark : sl'.abortedBy = sl.abortedBy := isNext ▸ counted.advance_abortedBy reports
  have command : sl'.command = sl.command := isNext ▸ counted.advance_command reports
  have reported (st : Status) : sl'.completion st = report st := by
    rw [← isNext, counted.advance_completion reports st, isNext]
    rfl
  have status : sl'.endStatus = match sl.command with
      | .fill _ _ _ => .success
      | _ => if uncorrectable + poisoned = 0 then .success else .dataErrors := by
    rw [← isNext, Slot.advance_endStatus]
    exact counted.endStatus_eq
  have handed : Accounted free u := handedOn_accounted source (some sl.tag) line reports free
  have ends (st : Status) : u.endSlot k sl' st = ended (sl'.completions st) := by
    rw [State.endSlot_eq, handed.slots]
    rfl
  have run : exec .slotTenureEnd s = .next (if sl.abortedBy.isSome then u.endSlot k sl' .aborted
      else if length ≤ sl'.progress then u.endSlot k sl' sl'.endStatus
      else u.setSlot k (some { sl' with phase := if u.engine.state = .halted then .held else .waiting })).conclude := by
    rw [exec_slotTenureEnd live tenure here, State.endSlotTenure_eq, sources, isCounted, isNext, ← mark, ← lengths,
      ← command]
    rfl
  refine ⟨handed, fun good => ?_, fun tag marked => ?_, fun unmarked whole => ?_, fun unmarked goesOn => ?_⟩
  · exact (State.handWords_eq free source (some sl.tag) line reports).symm.trans
      (State.handWords_noDetection _ _ _ _ _ fun r inside d decoded => by rw [good r inside d decoded]; rfl)
  · have completions : sl'.completions .aborted = [report .aborted, ⟨tag, 13#4, .success, 0, 0, 0, 0, 0#28, true⟩] := by
      rw [Slot.completions, mark, marked, ← reported]
      rfl
    rw [run, marked, if_pos Option.isSome_some, ends, completions]
  · have completions (st : Status) : sl'.completions st = [report st] := by
      rw [Slot.completions, mark, unmarked, ← reported]
    rw [run, unmarked, if_neg (by decide), if_pos whole, ends, completions]
    exact congrArg (fun st => Host.Outcome.next (ended [report st]).conclude) status
  · have state : u.engine.state = s.engine.state := congrArg Engine.state handed.engine
    have slots : u.admission.slots = s.admission.slots := handed.slots
    rw [run, unmarked, if_neg (by decide), if_neg (Nat.not_le.2 goesOn), state, ← slots]
    rfl

end Sys2Proof.Machine
end


section
/-!
Records presented to admission, and the pending list from which the head issues (R129 to R138). Settled here: O50.
-/

namespace Sys2Proof.Machine

section
variable (s : State)

/-- The places of R129, the engine issuing and RESET not asserted (log 7). -/
theorem State.admits_iff : s.admits = true ↔ s.resetAsserted = false
    ∧ (s.engine.state = .running ∨ s.engine.state = .quiescing) ∧ s.admission.pendingList.length < 16 ∧ s.liveCount < 32
    ∧ s.fetchInTenure = false := by
  simp only [State.admits, Bool.and_eq_true, Bool.not_eq_true', decide_eq_true_eq, EngineState.issues_iff, and_assoc]

/-! ### The head of the pending list (R134, R135) -/

variable {s}

/-- An empty list issues nothing, and neither does an engine that is not RUNNING or QUIESCING (R135). -/
theorem State.issueAll_idle (idle : s.admission.pendingList = [] ∨ s.engine.state.issues = false) : s.issueAll = s := by
  unfold State.issueAll
  cases list : s.admission.pendingList with
  | nil => rfl
  | cons p rest =>
    have stopped : s.engine.state.issues = false := idle.resolve_left (by simp [list])
    exact if_neg (by simp [stopped])

section
variable {p : PendingCommand} {rest : List PendingCommand} (list : s.admission.pendingList = p :: rest)
include list

/-- A head that may issue leaves the list, issues, and the next head is judged (R135). -/
theorem State.issueAll_head (issues : s.engine.state.issues = true) (may : s.mayIssue p.command = true) : s.issueAll
    = ((s.withAdmission { s.admission with pendingList := rest }).issueCommand p.tag p.command).issueAll := by
  have left := (State.issueCommand_slots (s.withAdmission { s.admission with pendingList := rest }) p.tag p.command).1
  conv_rhs => rw [State.issueAll, left]
  rw [State.issueAll, list]
  exact if_pos ⟨issues, may⟩

/-- A head that may not issue stands, and so does all behind it (R134). -/
theorem State.issueAll_stands (mayNot : s.mayIssue p.command = false) : s.issueAll = s := by
  rw [State.issueAll, list]
  exact if_neg (by simp [mayNot])

end

/-! ### The command rows (log 7) -/

/-- Each of software's thirteen rows presents its record. -/
theorem exec_presentsRecord {i : Instr} {tag : Tag} {c : Command} (s : State)
    (row : (∃ f l p, i = .scrub tag f l p ∧ c = .slot (.scrub f.toNat l.toNat p))
      ∨ (∃ f l, i = .verify tag f l ∧ c = .slot (.verify f.toNat l.toNat))
      ∨ (∃ f l d, i = .fill tag f l d ∧ c = .slot (.fill f.toNat l.toNat d))
      ∨ (∃ a b l, i = .copy tag a b l ∧ c = .slot (.copy a.toNat b.toNat l.toNat))
      ∨ (∃ f, i = .retire tag f ∧ c = .retire f.toNat)
      ∨ (∃ f k, i = .install tag f k ∧ c = .install f.toNat k.toNat)
      ∨ (∃ k, i = .withdrawSpare tag k ∧ c = .withdrawSpare k.toNat)
      ∨ (∃ f, i = .query tag f ∧ c = .query f.toNat)
      ∨ (∃ f, i = .clearSuspect tag f ∧ c = .clearSuspect f.toNat)
      ∨ (∃ k v b n a, i = .setRegion tag k v b n a ∧ c = .setRegion k.toNat v b.toNat n.toNat
          ⟨a.getLsbD 0, a.getLsbD 1, a.getLsbD 2, a.getLsbD 3⟩)
      ∨ (∃ e n r, i = .setPatrol tag e n r ∧ c = .setPatrol e n r)
      ∨ (i = .fence tag ∧ c = .fence) ∨ (∃ target, i = .abort tag target ∧ c = .abort target)) :
    exec i s = s.presentRecord tag c := by
  rcases row with ⟨_, _, _, rfl, rfl⟩ | ⟨_, _, rfl, rfl⟩ | ⟨_, _, _, rfl, rfl⟩ | ⟨_, _, _, rfl, rfl⟩ | ⟨_, rfl, rfl⟩
    | ⟨_, _, rfl, rfl⟩ | ⟨_, rfl, rfl⟩ | ⟨_, rfl, rfl⟩ | ⟨_, rfl, rfl⟩ | ⟨_, _, _, _, _, rfl, rfl⟩ | ⟨_, _, _, rfl, rfl⟩
    | ⟨rfl, rfl⟩ | ⟨_, rfl, rfl⟩ <;> rfl

section
variable {tag : Tag} {sc : SlotCommand} (admits : s.admits = true) (nothingAhead : s.admission.pendingList = [])
  (fields : (Command.slot sc).fieldsOk s.straps.spareFrames = true)
  (addresses : (Command.slot sc).addressesOk s.straps.hostFrames = true) (fresh : tag ∉ s.tagSet)
include admits nothingAhead fields addresses fresh

/-- A slot command that conflicts with nothing takes the lowest-numbered empty slot (R136, R138). -/
theorem State.presentRecord_takesSlot {k : Nat} (inside : k < s.admission.slots.length) (empty : s.slotAt k = none)
    (lowest : ∀ j < k, s.slotAt j ≠ none)
    (apart : ∀ j sl, s.slotAt j = some sl → sl.command.conflicts sc = false) : s.presentRecord tag (.slot sc)
      = .next (s.withAdmission { s.admission with
          slots := s.admission.slots.set k (some (Slot.taken tag sc)) }).conclude := by
  have may : s.mayIssue (.slot sc) = true := (s.slotReady_iff sc).2 ⟨⟨k, inside, empty⟩, apart⟩
  rw [s.presentRecord_issues tag (.slot sc) admits nothingAhead fields addresses fresh may nofun, State.issueCommand,
    State.occupySlot, firstFree_eq_some inside empty lowest]
  rfl

/-- A slot command with no empty slot, or in conflict with an occupied one, stands in the list (R134, R136). -/
theorem State.presentRecord_waits (blocked : (∀ k, k < s.admission.slots.length → s.slotAt k ≠ none)
      ∨ ∃ j sl, s.slotAt j = some sl ∧ sl.command.conflicts sc = true) : s.presentRecord tag (.slot sc)
      = .next (s.withAdmission { s.admission with pendingList := [⟨tag, .slot sc⟩] }).conclude := by
  refine s.presentRecord_stands tag (.slot sc) admits nothingAhead fields addresses fresh ?_ nofun
  refine Bool.eq_false_iff.2 fun may => ?_
  obtain ⟨⟨k, inside, empty⟩, apart⟩ := (s.slotReady_iff sc).1 may
  rcases blocked with full | ⟨j, sl, here, conflict⟩
  · exact full k inside empty
  · exact Bool.eq_false_iff.1 (apart j sl here) conflict

end

end

/-- Settles O50: a record joins the tail, the head issues while it may, and a slot command's slot is the lowest empty one. -/
theorem slotCommandsIssueOrWait : Obligations.SlotCommandsIssueOrWait := by
  refine ⟨State.admits_iff, fun i tag sc s admits nothingAhead row fields addresses fresh => ?_,
    fun s => ⟨fun idle => ?_, ?_⟩, ?_, fun i tag c s row => ?_⟩
  · have run : exec i s = s.presentRecord tag (.slot sc) := by
      apply exec_presentsRecord s
      rcases row with ⟨f, l, p, rfl, rfl⟩ | ⟨f, l, rfl, rfl⟩ | ⟨f, l, d, rfl, rfl⟩ | ⟨a, b, l, rfl, rfl⟩
      · exact .inl ⟨f, l, p, rfl, rfl⟩
      · exact .inr (.inl ⟨f, l, rfl, rfl⟩)
      · exact .inr (.inr (.inl ⟨f, l, d, rfl, rfl⟩))
      · exact .inr (.inr (.inr (.inl ⟨a, b, l, rfl, rfl⟩)))
    rw [run]
    exact ⟨fun k => State.presentRecord_takesSlot admits nothingAhead fields addresses fresh,
      State.presentRecord_waits admits nothingAhead fields addresses fresh⟩
  · rw [← EngineState.issues_iff, Bool.not_eq_true] at idle
    exact State.issueAll_idle idle
  · intro p rest list issues may
    have may_iff : s.mayIssue p.command = true ↔ may := by
      cases command : p.command with
      | slot sc => simpa [may, command, State.mayIssue] using s.slotReady_iff sc
      | fence => simpa [may, command, State.mayIssue] using s.allFree_slots_iff
      | _ => simp [may, command, State.mayIssue]
    rw [← EngineState.issues_iff] at issues
    refine ⟨fun allowed => State.issueAll_head list issues (may_iff.2 allowed), fun blocked => ?_, may_iff⟩
    exact State.issueAll_stands list (Bool.eq_false_iff.2 (mt may_iff.1 blocked))
  · intro s r c named fields addresses fresh notAbort joined
    have joins : s.takeRecord r = joined.issueAll := State.takeRecord_joins s r c named fields addresses fresh notAbort
    refine ⟨joins, fun p rest list mayNot => joins.trans ?_⟩
    exact State.issueAll_stands (s := joined) (rest := rest ++ [⟨r.tag, c⟩]) (by simp [joined, list])
      ((s.mayIssue_withPendingList _ p.command).trans mayNot)
  · rw [exec_presentsRecord s row, State.presentRecord]
    exact ⟨fun admits => by rw [if_pos admits], fun admits => by rw [admits]; rfl⟩

end Sys2Proof.Machine
end


section
/-!
The judgement of a record and the fields of its words (R131, R179). Settled here: O49.
-/

namespace Sys2Proof.Machine

/-! ### The four checks (R131) -/

/-- A refused record answers with one completion that accepts nothing (R131). -/
theorem State.takeRecord_refused {s : State} {r : CommandRecord} {st : Status} (refused : s.judge r = .inl st) :
    s.takeRecord r = s.withAdmission { s.admission with
      backlog := s.admission.backlog ++ [⟨r.tag, r.kind, st, 0, 0, 0, 0, 0#28, false⟩] } := by
  rw [State.takeRecord, refused]
  rfl

/-! ### What checks 2 and 3 ask of each kind (R131, R179) -/

theorem lengthOk_iff (length : Nat) : lengthOk length = true ↔ 1 ≤ length ∧ length ≤ 16777216 := by
  simp only [lengthOk, Bool.and_eq_true, decide_eq_true_eq]

theorem Command.fieldsOk_copy (spares source destination length : Nat) :
    (Command.slot (.copy source destination length)).fieldsOk spares = true ↔ 1 ≤ length ∧ length ≤ 16777216
      ∧ ¬∃ line, (source ≤ line ∧ line < source + length) ∧ destination ≤ line ∧ line < destination + length := by
  rw [Command.fieldsOk, Bool.and_eq_true, lengthOk_iff, and_assoc, Bool.not_eq_true', ← Bool.not_eq_true, rangesMeet_iff]

theorem Command.fieldsOk_setRegion (spares index : Nat) (valid : Bool) (base exponent : Nat) (attributes : Attributes) :
    (Command.setRegion index valid base exponent attributes).fieldsOk spares = true ↔
      index < 8 ∧ (valid = true → 20 ≤ exponent ∧ exponent ≤ 34 ∧ 2 ^ exponent ∣ base) := by
  cases valid <;> simp [Command.fieldsOk, Nat.dvd_iff_mod_eq_zero, and_assoc]

theorem Command.addressesOk_copy (hostFrames source destination length : Nat) :
    (Command.slot (.copy source destination length)).addressesOk hostFrames = true ↔
      source + length ≤ hostFrames * 64 ∧ destination + length ≤ hostFrames * 64 := by
  simp only [Command.addressesOk, Bool.and_eq_true, decide_eq_true_eq]

/-! ### The fields of a record's words (11.3) -/

/-- Every kind uses the tag and the kind field. -/
theorem usedBits_tag (kind : BitVec 4) : ((usedBits kind).getD 0 0#64).extractLsb' 0 16 = BitVec.allOnes 16 := by
  revert kind
  decide

theorem usedBits_kind (kind : BitVec 4) : ((usedBits kind).getD 0 0#64).extractLsb' 16 4 = BitVec.allOnes 4 := by
  revert kind
  decide

section
variable {words others : List DataWord} {kind : BitVec 4}
  (agree : ∀ i < 8, others.getD i 0#64 &&& (usedBits kind).getD i 0#64 = words.getD i 0#64 &&& (usedBits kind).getD i 0#64)
include agree

/-- Words that agree on the used bits agree on every field within them. -/
theorem extract_of_used {i lo len : Nat} (inside : i < 8)
    (used : ((usedBits kind).getD i 0#64).extractLsb' lo len = BitVec.allOnes len) :
    (others.getD i 0#64).extractLsb' lo len = (words.getD i 0#64).extractLsb' lo len := by
  have masked (w : List DataWord) : (w.getD i 0#64).extractLsb' lo len
      = (w.getD i 0#64 &&& (usedBits kind).getD i 0#64).extractLsb' lo len := by
    rw [BitVec.extractLsb'_and, used, BitVec.and_allOnes]
  rw [masked others, masked words, agree i inside]

theorem recordField_of_used {i lo len : Nat} (inside : i < 8)
    (used : ((usedBits kind).getD i 0#64).extractLsb' lo len = BitVec.allOnes len) :
    recordField others i lo len = recordField words i lo len :=
  congrArg BitVec.toNat (extract_of_used agree inside used)

theorem getLsbD_of_used {i j : Nat} (inside : i < 8) (used : ((usedBits kind).getD i 0#64).getLsbD j = true) :
    (others.getD i 0#64).getLsbD j = (words.getD i 0#64).getLsbD j := by
  have same := congrArg (BitVec.getLsbD · j) (agree i inside)
  simpa only [BitVec.getLsbD_and, used, Bool.and_true] using same

theorem word_of_used {i : Nat} (inside : i < 8) (used : (usedBits kind).getD i 0#64 = BitVec.allOnes 64) :
    others.getD i 0#64 = words.getD i 0#64 := by
  simpa only [used, BitVec.and_allOnes] using agree i inside

/-- A command's fields lie in the bits its kind uses, so no other bit is examined (R179). -/
theorem commandOfWords_of_used (isKind : (words.getD 0 0#64).extractLsb' 16 4 = kind) :
    commandOfWords others = commandOfWords words := by
  have sameKind : recordField others 0 16 4 = recordField words 0 16 4 :=
    recordField_of_used agree (by decide) (usedBits_kind kind)
  unfold commandOfWords
  rw [sameKind]
  have code {n : Nat} (h : recordField words 0 16 4 = n) : kind = BitVec.ofNat 4 n := by
    rw [← h, ← isKind, recordField, BitVec.ofNat_toNat, BitVec.setWidth_eq]
  split
  case h_14 => rfl
  all_goals
    next h =>
      obtain rfl := code h
      simp (disch := decide) only [recordField_of_used agree, extract_of_used agree, getLsbD_of_used agree,
        word_of_used agree]

end

/-- The kind codes 0, 14 and 15 name no command, every other the command of that code (11.3). -/
theorem commandOfWords_kind (words : List DataWord) :
    (commandOfWords words = none ↔ (words.getD 0 0#64).extractLsb' 16 4 = 0#4
      ∨ (words.getD 0 0#64).extractLsb' 16 4 = 14#4 ∨ (words.getD 0 0#64).extractLsb' 16 4 = 15#4)
    ∧ ∀ c, commandOfWords words = some c → c.kindCode = (words.getD 0 0#64).extractLsb' 16 4 := by
  unfold commandOfWords recordField
  generalize (words.getD 0 0#64).extractLsb' 16 4 = kind
  have code {n : Nat} (h : kind.toNat = n) : kind = BitVec.ofNat 4 n := by
    rw [← h, BitVec.ofNat_toNat, BitVec.setWidth_eq]
  dsimp only
  split
  case h_14 =>
    refine ⟨iff_of_true rfl ?_, nofun⟩
    simp only [imp_false] at *
    bv_omega
  all_goals
    next h =>
      obtain rfl := code h
      refine ⟨iff_of_false nofun (by decide), ?_⟩
      rintro _ ⟨⟩
      rfl

/-- Settles O49: the first check that fails refuses, and the fields are those of the kind's used bits. -/
theorem recordsAreJudgedInOrder : Obligations.RecordsAreJudgedInOrder := by
  refine ⟨?_, fun c spares => ?_, fun c hostFrames => ?_, fun words => ⟨rfl, rfl, ?_, ?_, fun others agree => ?_⟩⟩
  · intro s r refuse
    refine ⟨fun unnamed => ?_, fun c named => ⟨fun fields => ?_, fun fields addresses => ?_, fun fields addresses taken => ?_⟩⟩
      <;> apply State.takeRecord_refused
    · rw [State.judge, unnamed]
    · simp [State.judge, named, fields]
    · simp [State.judge, named, fields, addresses]
    · simp [State.judge, named, fields, addresses, taken]
  · cases c with
    | slot sc =>
      cases sc with
      | copy source destination length => exact Command.fieldsOk_copy spares source destination length
      | _ => exact lengthOk_iff _
    | install _ _ | withdrawSpare _ => exact decide_eq_true_iff
    | setRegion index valid base exponent attributes =>
      exact Command.fieldsOk_setRegion spares index valid base exponent attributes
    | setPatrol _ _ _ => exact bne_iff_ne
    | _ => exact iff_of_true rfl trivial
  · cases c with
    | slot sc =>
      cases sc with
      | copy source destination length => exact Command.addressesOk_copy hostFrames source destination length
      | _ => exact decide_eq_true_iff
    | retire _ | install _ _ | query _ | clearSuspect _ => exact decide_eq_true_iff
    | _ => exact iff_of_true rfl trivial
  · exact (commandOfWords_kind words).1
  · exact (commandOfWords_kind words).2
  · have tag := extract_of_used agree (by decide) (usedBits_tag _)
    have kind := extract_of_used agree (by decide) (usedBits_kind _)
    have command := commandOfWords_of_used agree rfl
    rw [recordOfWords, tag, kind, command]
    rfl

end Sys2Proof.Machine
end


section
/-!
Events and Fault Capture (R168 to R170, R174, R175): what an offer leaves in the news, and which error Fault Capture
shows. Settled here: O59, O60.
-/

namespace Sys2Proof.Machine

/-! ### Recording an offer (R168 to R170) -/

section
variable (n : News) (e : EventRecord)

/-- The overflow summary after a loss: pending from the first lost event, whose kind and source it keeps (R170). -/
theorem News.countLost_eq : n.countLost e = { n with overflow := match n.overflow with
    | none => some ⟨1, e.kind, e.source⟩
    | some o => some ⟨min 65535 (o.count + 1), o.firstKind, o.firstSource⟩ } := by
  unfold News.countLost
  cases n.overflow <;> rfl

/-- An engine that posts records an offer where the list has room for it, and counts it elsewhere (R169). -/
theorem News.record_of_posts {st : EngineState} (posts : st.posts = true) : n.record st e =
    if n.events.length < 8 ∧ n.overflow = none then { n with events := n.events ++ [e] } else n.countLost e := by
  obtain rfl | rfl | rfl := (EngineState.posts_iff st).mp posts <;> rfl

end

section
variable {s : State} {e : EventRecord}

theorem State.offer_of_dropped (corrected : e.kind = .corrected) (off : s.engine.reportCorrected = false) :
    s.offer e = s := if_pos ⟨corrected, off⟩

theorem State.offer_of_kept (kept : e.kind ≠ .corrected ∨ s.engine.reportCorrected = true) :
    s.offer e = s.withNews (s.news.record s.engine.state e) := by
  refine if_neg fun ⟨corrected, off⟩ => ?_
  obtain other | on := kept
  · exact other corrected
  · exact Bool.false_ne_true (off.symm.trans on)

end

/-- Settles O59: by the filter first, then by the engine's state, then by the list's room. -/
theorem eventsAreRecordedOrCounted : Obligations.EventsAreRecordedOrCounted := by
  intro s e
  refine ⟨State.offer_of_dropped, fun kept => ?_⟩
  have recorded : s.offer e = s.withNews (s.news.record s.engine.state e) := State.offer_of_kept kept
  have counted := congrArg s.withNews (s.news.countLost_eq e)
  refine ⟨?_, fun halted => ?_, fun posts place empty => ?_, fun posts full => ?_⟩
  · rintro (state | state) <;> rw [recorded, state] <;> rfl
  · rw [halted] at recorded
    exact recorded.trans counted
  · rw [News.record_of_posts _ _ posts, if_pos ⟨place, empty⟩] at recorded
    exact recorded
  · rw [News.record_of_posts _ _ posts, if_neg fun ⟨place, empty⟩ => full.elim place.not_ge (· empty)] at recorded
    exact recorded.trans counted

/-! ### The error Fault Capture shows (R174, R175) -/

/-- Class B is the CORRECTED errors. -/
theorem CaptureKind.isClassA_eq_false_iff (k : CaptureKind) : k.isClassA = false ↔ ∃ b, k = .corrected b := by
  cases k <;> simp [CaptureKind.isClassA]

/-- An error takes the place of the one held exactly where it is of class A and the one held of class B (R175). -/
theorem captureNext_some (h c : Capture) : captureNext (some h) c =
    if (∃ b, h.kind = .corrected b) ∧ (∀ b, c.kind ≠ .corrected b) then { c with more := true }
    else { h with more := true } := by
  simp only [captureNext, Bool.and_eq_true, Bool.not_eq_true', ← not_exists, ← CaptureKind.isClassA_eq_false_iff,
    Bool.not_eq_false, and_comm]

/-- Settles O60: by what Fault Capture holds, then by the two errors' classes. -/
theorem faultCaptureKeepsTheMostSerious : Obligations.FaultCaptureKeepsTheMostSerious := by
  intro s kind source line word
  unfold State.present
  refine ⟨fun empty => ?_, fun h held => ⟨fun moreSerious => ?_, fun notMoreSerious => ?_⟩⟩
  · rw [empty]; rfl
  · rw [held, captureNext_some, if_pos moreSerious]
  · rw [held, captureNext_some, if_neg notMoreSerious]

end Sys2Proof.Machine
end


section
/-!
The record formats (11.1 to 11.5, R179 to R181): the fields of a record's words, the command record that software writes
and the part reads back, and the completion and event records the part posts. Settled here: O34 and O35.
-/

namespace Sys2Proof.Machine

/-! ### Fields placed in a word (11.1) -/

section
variable (value : Nat) {lo len : Nat}

/-- A placed field's bits are its value's lowest bits, moved to its place; every other bit is 0. -/
theorem getLsbD_placeField (i : Nat) : (placeField value lo len).getLsbD i
    = (decide (i < 64) && (decide (lo ≤ i) && (decide (i - lo < len) && value.testBit (i - lo)))) := by
  simp [placeField, BitVec.getLsbD_ofNat, Nat.testBit_shiftLeft, Nat.testBit_mod_two_pow]

/-- A placed field sets no bit apart from its own. -/
theorem getLsbD_placeField_apart {i : Nat} (apart : i < lo ∨ lo + len ≤ i) :
    (placeField value lo len).getLsbD i = false := by
  rw [getLsbD_placeField]
  simp only [Bool.and_eq_false_imp, decide_eq_true_eq]
  omega

/-- A bit within a placed field is the value's bit of that rank. -/
theorem getLsbD_placeField_within {i : Nat} (inside : i < 64) (from_lo : lo ≤ i) (below : i < lo + len) :
    (placeField value lo len).getLsbD i = value.testBit (i - lo) := by
  simp only [getLsbD_placeField, inside, from_lo, show i - lo < len by omega, decide_true, Bool.true_and]

/-- A placed field reads its value's lowest bits at its own place. -/
theorem extractLsb'_placeField_same (inside : lo + len ≤ 64) :
    (placeField value lo len).extractLsb' lo len = BitVec.ofNat len value := by
  refine BitVec.eq_of_getLsbD_eq fun i place => ?_
  rw [BitVec.getLsbD_extractLsb', BitVec.getLsbD_ofNat, getLsbD_placeField_within value (by omega) (by omega) (by omega),
    Nat.add_sub_cancel_left]

/-- A placed field reads 0 at every place apart from its own. -/
theorem extractLsb'_placeField_apart {lo' len' : Nat} (apart : lo + len ≤ lo' ∨ lo' + len' ≤ lo) :
    (placeField value lo len).extractLsb' lo' len' = 0#len' := by
  refine BitVec.eq_of_getLsbD_eq fun i place => ?_
  rw [BitVec.getLsbD_extractLsb', getLsbD_placeField_apart value (by omega), Bool.and_false, BitVec.getLsbD_zero]

end

/-! ### Words that software writes (11.1) -/

section
variable {value lo len : Nat}

/-- In a word given by its fields from the lowest up, a field that fits its place below the others is set beside them. -/
theorem recordWordOf_cons {rest : List (Nat × Nat)} (fits : value < 2 ^ len) (above : ∀ f ∈ rest, lo + len ≤ f.2) :
    recordWordOf ((value, lo) :: rest) = placeField value lo len ||| recordWordOf rest := by
  obtain ⟨high, sum⟩ : 2 ^ (lo + len) ∣ (rest.map fun f => f.1 * 2 ^ f.2).sum := by
    refine List.dvd_sum fun term listed => ?_
    obtain ⟨f, mem, rfl⟩ := List.mem_map.1 listed
    exact Dvd.dvd.mul_left (pow_dvd_pow 2 (above f mem)) f.1
  have low : value * 2 ^ lo < 2 ^ (lo + len) := by
    rw [pow_add, mul_comm]
    exact Nat.mul_lt_mul_of_pos_left fits (Nat.two_pow_pos lo)
  rw [recordWordOf, recordWordOf, List.map_cons, List.sum_cons, sum, Nat.add_comm, Nat.two_pow_add_eq_or_of_lt low,
    BitVec.ofNat_or, BitVec.or_comm, placeField, Nat.mod_eq_of_lt fits, Nat.shiftLeft_eq]

theorem recordWordOf_one (fits : value < 2 ^ len) : recordWordOf [(value, lo)] = placeField value lo len :=
  (recordWordOf_cons fits (by simp)).trans BitVec.or_zero

theorem recordWordOf_two {value' lo' len' : Nat} (fits : value < 2 ^ len) (fits' : value' < 2 ^ len')
    (order : lo + len ≤ lo') :
    recordWordOf [(value, lo), (value', lo')] = placeField value lo len ||| placeField value' lo' len' := by
  rw [recordWordOf_cons fits (by simpa using order), recordWordOf_one fits']

/-- A field that stands alone in its word reads back as it was written. -/
theorem toNat_extractLsb'_recordWordOf (fits : value < 2 ^ len) (inside : lo + len ≤ 64) :
    ((recordWordOf [(value, lo)]).extractLsb' lo len).toNat = value := by
  rw [recordWordOf_one fits, extractLsb'_placeField_same value inside, BitVec.toNat_ofNat, Nat.mod_eq_of_lt fits]

/-- A lone field that software writes from a word of the field's width reads back as that word. -/
theorem extractLsb'_recordWordOf_toNat (x : BitVec len) (inside : lo + len ≤ 64) :
    (recordWordOf [(x.toNat, lo)]).extractLsb' lo len = x :=
  BitVec.eq_of_toNat_eq (toNat_extractLsb'_recordWordOf x.isLt inside)

/-- The lower of two fields in a word reads back as it was written, whatever stands above it. -/
theorem toNat_extractLsb'_recordWordOf_low {value' lo' : Nat} (fits : value < 2 ^ len) (order : lo + len ≤ lo')
    (inside : lo + len ≤ 64) : ((recordWordOf [(value, lo), (value', lo')]).extractLsb' lo len).toNat = value := by
  rw [recordWordOf_two fits Nat.lt_two_pow_self order, BitVec.extractLsb'_or, extractLsb'_placeField_same value inside,
    extractLsb'_placeField_apart value' (.inr order), BitVec.or_zero, BitVec.toNat_ofNat, Nat.mod_eq_of_lt fits]

/-- The upper of two fields in a word reads back as it was written, if the lower stays below it. -/
theorem toNat_extractLsb'_recordWordOf_high {value' lo' : Nat} (fits : value' < 2 ^ (lo - lo')) (order : lo' ≤ lo)
    (fits' : value < 2 ^ len) (inside : lo + len ≤ 64) :
    ((recordWordOf [(value', lo'), (value, lo)]).extractLsb' lo len).toNat = value := by
  have below : lo' + (lo - lo') ≤ lo := (Nat.add_sub_of_le order).le
  rw [recordWordOf_two fits fits' below, BitVec.extractLsb'_or, extractLsb'_placeField_apart value' (.inl below),
    extractLsb'_placeField_same value inside, BitVec.zero_or, BitVec.toNat_ofNat, Nat.mod_eq_of_lt fits']

end

theorem oneBit_lt (b : Bool) : oneBit b < 2 := by cases b <;> decide

/-- Two flags side by side read back bit by bit. -/
theorem testBit_oneBit_low (b b' : Bool) : (oneBit b + 2 * oneBit b').testBit 0 = b := by
  cases b <;> cases b' <;> decide

theorem testBit_oneBit_high (b b' : Bool) : (oneBit b + 2 * oneBit b').testBit 1 = b' := by
  cases b <;> cases b' <;> decide

theorem Attributes.code_lt (a : Attributes) : a.code < 2 ^ 4 := by
  obtain ⟨_ | _, _ | _, _ | _, _ | _⟩ := a <;> decide

/-- The four attributes of a region read back (11.1). -/
theorem attributesOfBits_recordWordOf (a : Attributes) :
    attributesOfBits ((recordWordOf [(a.code, 0)]).extractLsb' 0 4) = a := by
  rw [recordWordOf_one a.code_lt, extractLsb'_placeField_same _ (by decide)]
  obtain ⟨_ | _, _ | _, _ | _, _ | _⟩ := a <;> rfl

/-! ### The command record (11.3) -/

/-- The flag bits of a command, bits 25 and 24 of word 0 (11.3). -/
def Command.flags : Command → Nat
  | .slot (.scrub _ _ poison) => oneBit poison
  | .setRegion _ valid _ _ _ => oneBit valid
  | .setPatrol enable _ restart => oneBit enable + 2 * oneBit restart
  | _ => 0

theorem Command.flags_lt (c : Command) : c.flags < 2 ^ 2 := by
  cases c with
  | slot sc =>
    cases sc with
    | scrub _ _ poison => exact (oneBit_lt poison).trans (by decide)
    | _ => exact Nat.two_pow_pos 2
  | setRegion _ valid _ _ _ => exact (oneBit_lt valid).trans (by decide)
  | setPatrol enable _ restart =>
    have enable_lt := oneBit_lt enable
    have restart_lt := oneBit_lt restart
    simp only [Command.flags]
    omega
  | _ => exact Nat.two_pow_pos 2

section
variable (tag : Tag) (c : Command)

/-- Word 0 of every command record holds the tag, the kind and the flags (11.3). -/
theorem Command.record_head : (c.record tag).getD 0 0#64
    = placeField tag.toNat 0 16 ||| (placeField c.kindCode.toNat 16 4 ||| placeField c.flags 24 2) := by
  have fields : recordWordOf [(tag.toNat, 0), (c.kindCode.toNat, 16), (c.flags, 24)]
      = placeField tag.toNat 0 16 ||| (placeField c.kindCode.toNat 16 4 ||| placeField c.flags 24 2) := by
    rw [recordWordOf_cons tag.isLt (by simp), recordWordOf_two c.kindCode.isLt c.flags_lt (by decide)]
  rw [← fields]
  cases c with
  | slot sc => cases sc <;> rfl
  | _ => rfl

theorem Command.record_tag : ((c.record tag).getD 0 0#64).extractLsb' 0 16 = tag := by
  rw [c.record_head tag]
  simp (disch := omega) [BitVec.extractLsb'_or, extractLsb'_placeField_same, extractLsb'_placeField_apart]

theorem Command.record_kind : ((c.record tag).getD 0 0#64).extractLsb' 16 4 = c.kindCode := by
  rw [c.record_head tag]
  simp (disch := omega) [BitVec.extractLsb'_or, extractLsb'_placeField_same, extractLsb'_placeField_apart]

/-- The flags stand at bits 24 and 25 (11.3). -/
theorem Command.record_flags : ((c.record tag).getD 0 0#64).getLsbD 24 = c.flags.testBit 0
    ∧ ((c.record tag).getD 0 0#64).getLsbD 25 = c.flags.testBit 1 := by
  rw [c.record_head tag]
  constructor <;>
    simp (disch := omega) only [BitVec.getLsbD_or, getLsbD_placeField_apart, getLsbD_placeField_within, Bool.false_or]

variable {c}

/-- Reading the fields of the kind gives the command back (R179). -/
theorem commandOfWords_record (fits : c.fits = true) : commandOfWords (c.record tag) = some c := by
  have kind : recordField (c.record tag) 0 16 4 = c.kindCode.toNat := congrArg BitVec.toNat (c.record_kind tag)
  obtain ⟨flag0, flag1⟩ := c.record_flags tag
  simp only [commandOfWords, kind, flag0, flag1]
  cases c with
  | slot sc =>
    cases sc
    all_goals
      simp only [Command.fits, Bool.and_eq_true, decide_eq_true_eq] at fits
      simp (disch := omega) only [Command.kindCode, BitVec.reduceToNat, Command.record, Command.flags, recordField,
        List.getD_cons_zero, List.getD_cons_succ, toNat_extractLsb'_recordWordOf, toNat_extractLsb'_recordWordOf_low,
        toNat_extractLsb'_recordWordOf_high, testBit_oneBit]
  | _ =>
    simp only [Command.fits, Bool.and_eq_true, decide_eq_true_eq] at fits
    simp (disch := omega) only [Command.kindCode, BitVec.reduceToNat, Command.record, Command.flags, recordField,
      List.getD_cons_zero, List.getD_cons_succ, toNat_extractLsb'_recordWordOf, toNat_extractLsb'_recordWordOf_low,
      toNat_extractLsb'_recordWordOf_high, extractLsb'_recordWordOf_toNat, attributesOfBits_recordWordOf,
      testBit_oneBit, testBit_oneBit_low, testBit_oneBit_high]

end

/-- Settles O34: word 0 gives tag, kind and flags, and each kind's own fields read back where they were placed. -/
theorem commandRecordRoundTrip : Obligations.CommandRecordRoundTrip := by
  refine ⟨fun tag c fits => ?_, fun w0 w1 w2 w3 w4 w5 w6 w7 => ?_⟩
  · rw [recordOfWords, c.record_tag, c.record_kind, commandOfWords_record tag fits]
  · have bits (w : DataWord) : attributesOfBits (w.extractLsb' 0 4)
        = ⟨w.getLsbD 0, w.getLsbD 1, w.getLsbD 2, w.getLsbD 3⟩ := by
      simp only [attributesOfBits, BitVec.getLsbD_extractLsb', Nat.reduceLT, decide_true, Bool.true_and, Nat.zero_add]
    have whole : w5.toNat = (w5.extractLsb' 0 64).toNat := by rw [BitVec.extractLsb'_eq_self]
    rw [← bits, whole]
    rfl

/-! ### The completion and the event record (11.4, 11.5) -/

theorem Status.code_lt (st : Status) : st.code < 2 ^ 4 := by cases st <;> decide

theorem Source.code_lt (source : Source) : source.code < 2 ^ 3 := by cases source <;> decide

theorem EventKind.code_lt (kind : EventKind) : kind.code < 2 ^ 4 := by cases kind <;> decide

/-- An optional number, written as 0 where there is none, fits a field that every value it may hold fits. -/
theorem getD_zero_lt {o : Option Nat} {len : Nat} (fits : ∀ k, o = some k → k < 2 ^ len) : o.getD 0 < 2 ^ len := by
  cases o with
  | none => exact Nat.two_pow_pos len
  | some k => exact fits k rfl

/-- Settles O35: every field fits its place and stands apart from the others; the codes are read off the tables. -/
theorem postedRecordLayouts : Obligations.PostedRecordLayouts := by
  refine ⟨?_, ?_, rfl, rfl, rfl, rfl, rfl, rfl, fun c => ?_⟩
  · intro c lap corrected uncorrectable poisoned linesDone
    have status := c.status.code_lt
    refine ⟨_, _, rfl, ?_⟩
    and_intros
    all_goals
      simp (disch := omega) only [BitVec.extractLsb'_or, BitVec.getLsbD_or, extractLsb'_placeField_same,
        extractLsb'_placeField_apart, getLsbD_placeField_within, getLsbD_placeField_apart, BitVec.or_zero,
        BitVec.zero_or, Bool.or_false, Bool.false_or, BitVec.toNat_ofNat, BitVec.ofNat_toNat, BitVec.setWidth_eq,
        Nat.mod_eq_of_lt, Nat.sub_self, testBit_oneBit]
  · intro e lap line word bit count frame spareBound
    have kind := e.kind.code_lt
    have source := e.source.code_lt
    have firstLost : (e.firstLost.map (·.code)).getD 0 < 2 ^ 4 := getD_zero_lt fun code held => by
      obtain ⟨lost, -, rfl⟩ := Option.map_eq_some_iff.1 held
      exact lost.code_lt
    have spare : e.spare.getD 0 < 2 ^ 6 := getD_zero_lt spareBound
    have tag : (e.tag.map (·.toNat)).getD 0 = (e.tag.getD 0#16).toNat := Option.getD_map _ 0#16 e.tag
    refine ⟨_, _, _, rfl, ?_⟩
    and_intros
    all_goals
      simp (disch := omega) only [BitVec.extractLsb'_or, BitVec.getLsbD_or, extractLsb'_placeField_same,
        extractLsb'_placeField_apart, getLsbD_placeField_within, getLsbD_placeField_apart, BitVec.or_zero,
        BitVec.zero_or, Bool.or_false, Bool.false_or, BitVec.toNat_ofNat, BitVec.ofNat_toNat, BitVec.setWidth_eq,
        Nat.mod_eq_of_lt, Nat.sub_self, testBit_oneBit, tag]
  · cases c with
    | slot sc => cases sc <;> rfl
    | _ => rfl

end Sys2Proof.Machine
end


section
/-!
One step of the block by what its queue holds (the queue is the model's: logs 1 and 9). Settled here: O1.
-/

namespace Sys2Proof.Machine

section
variable {s : State} {c : Instr} {rest : List Instr}

/-- An empty queue leaves the block idle (log 9). -/
theorem step_of_pending_nil (empty : s.pending = []) : step s = .next s := by
  simp only [step, empty]

/-- The front command leaves the queue before it runs (log 1). -/
theorem step_of_pending_cons (queue : s.pending = c :: rest) : step s = exec c (s.withPending rest) := by
  simp only [step, queue]

end

/-- Settles O1: a queue is empty or has a front command, and putting a command in front of the queue and taking it off
again gives the state back. -/
theorem stepRunsFrontCommand : Obligations.StepRunsFrontCommand := by
  refine ⟨fun c s => ?_, fun _ => step_of_pending_nil⟩
  calc step (s.withPending (c :: s.pending))
      = exec c ((s.withPending (c :: s.pending)).withPending s.pending) :=
        step_of_pending_cons (State.withPending_pending ..)
    _ = exec c s := by rw [State.withPending_withPending, State.withPending_self]

end Sys2Proof.Machine
end

section
/-!
The Remap Table and the Spare Pool as software changes and reads them (R49 to R61): INSTALL, WITHDRAW_SPARE and QUERY, and
the isolation of host lines that R51 gives. Settled here: O12, O53, O54 and O55.
-/

namespace Sys2Proof.Machine

/-! ### Isolation (R51 to R54) -/

/-- Settles O12: a Line Write reaches its source line and a migration target, a Repair Read its source line, and neither is
the source line of another host line. -/
theorem tenuresTouchOneHostLine : Obligations.TenuresTouchOneHostLine := by
  intro s a b tables _ ha hb differ
  have apart : s.sourceLine a ≠ s.sourceLine b := fun same => differ (State.sourceLine_inj tables ha hb same)
  have notTarget : s.dualLine a ≠ some (s.sourceLine b) := fun dual =>
    State.targetLine_ne_sourceLine tables hb (State.dualLine_some dual) rfl
  exact ⟨apart,
    fun ws full w hw => read_lineWriteEffect_otherLine s.memory _ _ ws full.le hw apart.symm notTarget,
    fun option w hw => read_repairReadEffect_otherLine s.memory _ option hw apart.symm⟩

/-! ### Entries put and spares taken (R49 to R51) -/

section
variable {t : Tables} {frame k : Nat}

theorem Tables.mem_putEntry_remap {st : RemapState} {e : RemapEntry} :
    e ∈ (t.putEntry frame st).remap ↔ e = ⟨frame, st⟩ ∨ (e ∈ t.remap ∧ e.frame ≠ frame) := by
  simp [Tables.putEntry]

theorem Tables.lowestFreeSpare_iff :
    t.lowestFreeSpare = some k ↔ t.spares[k]? = some .free ∧ ∀ j < k, t.spares[j]? ≠ some .free := by
  refine ⟨fun lowest => ?_, fun ⟨free, lowest⟩ => Tables.lowestFreeSpare_eq_some free lowest⟩
  obtain ⟨inside, free, before⟩ := List.findIdx?_eq_some_iff_getElem.1 lowest
  refine ⟨?_, fun j below => ?_⟩
  · rw [List.getElem?_eq_getElem inside, eq_of_beq free]
  · rw [List.getElem?_eq_getElem (below.trans inside)]
    simpa using before j below

/-- INSTALL is refused for a spare that is not FREE, a frame with an entry, or a queued frame (R56). -/
theorem Tables.installRefused_iff : t.installRefused frame k = true ↔
    t.spares[k]? ≠ some .free ∨ t.entryOf frame ≠ none ∨ ∃ r ∈ t.retireQueue, r.frame = frame := by
  simp [Tables.installRefused, Tables.queued, Option.isSome_iff_ne_none, or_assoc]

end

/-- Settles O53: an entry put stands before the others, and INSTALL issues at once and is refused or puts one. -/
theorem installOutcomes : Obligations.InstallOutcomes := by
  refine ⟨fun t frame st => ⟨rfl, fun f => ?_, fun e => Tables.mem_putEntry_remap⟩, ?_⟩
  · split
    · rename_i mine
      exact mine ▸ t.entryOf_putEntry f st
    · rename_i other
      exact t.entryOf_putEntry_other st other
  intro tag frame spare s admits nothingAhead inHost inPool fresh done refused
  have run : exec (.install tag frame spare) s = .next (s.issueInstall tag frame.toNat spare.toNat).conclude :=
    s.presentRecord_issues tag (.install frame.toNat spare.toNat) admits nothingAhead (decide_eq_true inPool)
      (decide_eq_true inHost) fresh rfl nofun
  refine ⟨fun conflict => ?_, fun free => ?_⟩
  · rw [run, State.issueInstall, if_pos (Tables.installRefused_iff.2 conflict)]
    rfl
  · rw [run, State.issueInstall, if_neg (mt Tables.installRefused_iff.1 free)]
    rfl

/-- A record with a field out of its range is refused with INVALID_FIELD (R131). -/
theorem State.presentRecord_invalidField {s : State} {c : Command} (tag : Tag) (admits : s.admits = true)
    (fields : c.fieldsOk s.straps.spareFrames = false) : s.presentRecord tag c
      = .next (s.complete (refusedCompletion ⟨tag, c.kindCode, some c⟩ .invalidField)).conclude := by
  have judged : s.judge ⟨tag, c.kindCode, some c⟩ = .inl .invalidField := by simp [State.judge, fields]
  simp only [State.presentRecord, admits, if_true, State.takeRecord, judged]

/-- Settles O54: the command issues at once, and the state its spare has decides. -/
theorem withdrawSpareOutcomes : Obligations.WithdrawSpareOutcomes := by
  refine ⟨fun t k => Tables.lowestFreeSpare_iff, ?_⟩
  intro tag spare s admits nothingAhead post
  refine ⟨fun beyond => ?_, fun inPool fresh st here => ?_⟩
  · exact State.presentRecord_invalidField (c := .withdrawSpare spare.toNat) tag admits
      (decide_eq_false (Nat.not_lt_of_le beyond))
  intro done withdrawn
  have run : exec (.withdrawSpare tag spare) s = .next (s.issueWithdraw tag spare.toNat).conclude :=
    s.presentRecord_issues tag (.withdrawSpare spare.toNat) admits nothingAhead (decide_eq_true inPool) rfl fresh rfl nofun
  have failed : withdrawn[spare.toNat]? = some .failed :=
    List.getElem?_set_self (List.getElem?_eq_some_iff.1 here).1
  refine ⟨fun free => ?_, fun taken => ?_, failed, fun lowest => ?_⟩
  · subst free
    rw [run, State.issueWithdraw, here]
    rfl
  · rw [run, State.issueWithdraw, here]
    exact congrArg (Host.Outcome.next ∘ State.conclude) (if_neg taken)
  · have free := (Tables.lowestFreeSpare_iff.1 lowest).1
    cases failed.symm.trans free

/-! ### QUERY's result word (11.4) -/

/-- The number that QUERY's result word holds, field by field from bit 0 up. -/
def queryNumber (state : Nat) (named suspect : Bool) (retire current target cursor : Nat) : Nat :=
  state + oneBit named * 2 ^ 2 + oneBit suspect * 2 ^ 3 + retire * 2 ^ 4 + (current % 64) * 2 ^ 6 + (target % 64) * 2 ^ 12
    + (cursor % 64) * 2 ^ 18

section
variable (suspect : Bool) (retire : RetireState)

theorem queryResult_none : queryResult none suspect retire
    = BitVec.ofNat 28 (queryNumber 0 false suspect retire.code 0 0 0) := rfl

theorem queryResult_active (frame k : Nat) : queryResult (some ⟨frame, .active k⟩) suspect retire
    = BitVec.ofNat 28 (queryNumber 1 true suspect retire.code k 0 0) := rfl

theorem queryResult_migrating (frame : Nat) (current : Option Nat) (target cursor : Nat) :
    queryResult (some ⟨frame, .migrating current target cursor⟩) suspect retire
      = BitVec.ofNat 28 (queryNumber 2 current.isSome suspect retire.code (current.getD 0) target cursor) := rfl

end

theorem RetireState.code_lt (st : RetireState) : st.code < 4 := by cases st <;> decide

theorem oneBit_eq_one_iff (b : Bool) : oneBit b = 1 ↔ b = true := by cases b <;> decide

/-- A field of a number held in 28 bits. -/
theorem toNat_extractLsb'_ofNat (n lo len : Nat) (fits : n < 2 ^ 28) :
    ((BitVec.ofNat 28 n).extractLsb' lo len).toNat = n / 2 ^ lo % 2 ^ len := by
  rw [BitVec.extractLsb'_toNat, BitVec.toNat_ofNat, Nat.mod_eq_of_lt fits, Nat.shiftRight_eq_div_pow]

section
variable {state : Nat} (named suspect : Bool) {retire : Nat} (current target cursor : Nat)
  (stateFits : state < 4) (retireFits : retire < 4)
include stateFits retireFits

theorem queryNumber_lt : queryNumber state named suspect retire current target cursor < 2 ^ 28 := by
  have hn := oneBit_lt named
  have hs := oneBit_lt suspect
  unfold queryNumber
  omega

/-- The fields of QUERY's result word stand apart and read back (11.4), alone and together with their neighbours. -/
theorem queryNumber_fields :
    let x := BitVec.ofNat 28 (queryNumber state named suspect retire current target cursor)
    ((x.extractLsb' 0 2).toNat = state ∧ x.getLsbD 2 = named ∧ x.getLsbD 3 = suspect
      ∧ (x.extractLsb' 4 2).toNat = retire ∧ (x.extractLsb' 6 6).toNat = current % 64
      ∧ (x.extractLsb' 12 6).toNat = target % 64 ∧ (x.extractLsb' 18 6).toNat = cursor % 64
      ∧ (x.extractLsb' 24 4).toNat = 0)
    ∧ (x.extractLsb' 0 3).toNat = state + 4 * oneBit named
    ∧ (x.extractLsb' 12 12).toNat = target % 64 + 64 * (cursor % 64)
    ∧ (x.extractLsb' 6 18).toNat = current % 64 + 64 * (target % 64 + 64 * (cursor % 64)) := by
  have fits := queryNumber_lt named suspect current target cursor stateFits retireFits
  have hn := oneBit_lt named
  have hs := oneBit_lt suspect
  intro x
  have bit (i : Nat) (b : Bool) (inside : i < 28)
      (digit : queryNumber state named suspect retire current target cursor / 2 ^ i % 2 = oneBit b) :
      x.getLsbD i = b := by
    rw [BitVec.getLsbD_ofNat, Nat.testBit_eq_decide_div_mod_eq, digit, Bool.eq_iff_iff]
    simp [inside, oneBit_eq_one_iff]
  simp only [x, toNat_extractLsb'_ofNat _ _ _ fits]
  refine ⟨⟨?_, bit 2 named (by decide) ?_, bit 3 suspect (by decide) ?_, ?_, ?_, ?_, ?_, ?_⟩, ?_, ?_, ?_⟩
  all_goals
    unfold queryNumber
    omega

end

theorem Tables.reportedRetire_code (t : Tables) (frame : Nat) : (t.reportedRetire frame).code
    = if t.migratingFrame = some frame then 2
      else if ∃ r ∈ t.retireQueue, r.frame = frame then 1
      else ((t.suspectOf frame).map fun e => e.retire.code).getD 0 := by
  have queued : t.queued frame = true ↔ ∃ r ∈ t.retireQueue, r.frame = frame := by simp [Tables.queued]
  simp only [Tables.reportedRetire, queued]
  split
  · rfl
  · split
    · rfl
    · cases t.suspectOf frame <;> rfl

/-- Settles O55: the command issues at once, and its result word holds the frame's entry field by field. -/
theorem queryReportsTheFrame : Obligations.QueryReportsTheFrame := by
  intro tag frame s admits nothingAhead inHost fresh
  have run : exec (.query tag frame) s = .next (s.issueQuery tag frame.toNat).conclude :=
    s.presentRecord_issues tag (.query frame.toNat) admits nothingAhead rfl (decide_eq_true inHost) fresh rfl nofun
  refine ⟨s.queryCompletion tag frame.toNat, run, rfl, rfl, rfl, rfl, rfl, ?_, ?_⟩
  · cases suspect : s.tables.suspectOf frame.toNat <;> simp [State.queryCompletion, suspect, queryLastWord]
  rw [← s.tables.reportedRetire_code frame.toNat]
  have fields (kind : Nat) (named : Bool) (current target cursor : Nat) (kindFits : kind < 4) :=
    queryNumber_fields named (s.tables.suspectOf frame.toNat).isSome current target cursor kindFits
      (s.tables.reportedRetire frame.toNat).code_lt
  have word : (s.queryCompletion tag frame.toNat).result = queryResult (s.tables.entryOf frame.toNat)
      (s.tables.suspectOf frame.toNat).isSome (s.tables.reportedRetire frame.toNat) := rfl
  rw [word]
  rcases s.tables.entryOf frame.toNat with _ | ⟨f, k | ⟨current, target, cursor⟩⟩
  · obtain ⟨⟨-, -, suspect, retire, -, -, -, top⟩, low, -, high⟩ := fields 0 false 0 0 0 (by decide)
    exact ⟨suspect, retire, BitVec.eq_of_toNat_eq top, BitVec.eq_of_toNat_eq low, BitVec.eq_of_toNat_eq high⟩
  · obtain ⟨⟨-, -, suspect, retire, spare, -, -, top⟩, low, high, -⟩ := fields 1 true k 0 0 (by decide)
    exact ⟨suspect, retire, BitVec.eq_of_toNat_eq top, BitVec.eq_of_toNat_eq low, spare, BitVec.eq_of_toNat_eq high⟩
  · obtain ⟨⟨state, named, suspect, retire, spare, target, cursor, top⟩, -⟩ :=
      fields 2 current.isSome (current.getD 0) target cursor (by decide)
    exact ⟨suspect, retire, BitVec.eq_of_toNat_eq top, state, named, spare, target, cursor⟩

end Sys2Proof.Machine
end

section
/-!
One entry of the Remap Table replaced (R50, R51): what the change must fit for the laws of R51 to stand, and that the start
of a migration, the cursor's advance, the cut-over, a reverted migration, INSTALL and WITHDRAW_SPARE fit it.
-/

namespace Sys2Proof.Machine

/-! ### The spares an entry names -/

theorem RemapState.mem_spares_iff {st : RemapState} {k : Nat} :
    k ∈ st.spares ↔ st.current? = some k ∨ st.target? = some k := by
  rcases st with c | ⟨_ | c, target, cursor⟩ <;> simp [RemapState.spares, RemapState.current?, RemapState.target?, eq_comm]

/-- The frame's entry names the spare, as current or as target. -/
def Tables.Names (t : Tables) (frame k : Nat) : Prop := t.currentOf frame = some k ∨ t.targetOf frame = some k

section
variable {t : Tables} {frame k : Nat}

theorem Tables.names_of_entry {e : RemapEntry} (entry : t.entryOf frame = some e) :
    t.Names frame k ↔ k ∈ e.state.spares := by
  rw [Tables.Names, Tables.currentOf, Tables.targetOf, entry, RemapState.mem_spares_iff]
  rfl

theorem Tables.not_names_of_none (entry : t.entryOf frame = none) : ¬ t.Names frame k := by
  simp [Tables.Names, Tables.currentOf, Tables.targetOf, entry]

/-- Where nothing migrates the frame's entry names its current spare alone. -/
theorem Tables.targetOf_eq_none (active : ∀ e, t.entryOf frame = some e → e.state.isMigrating = false) :
    t.targetOf frame = none := by
  cases entry : t.entryOf frame with
  | none => rw [Tables.targetOf, entry]; rfl
  | some e =>
    have := active e entry
    rcases e with ⟨f, c | m⟩
    · rw [Tables.targetOf, entry]; rfl
    · cases this

variable (tables : t.Consistent)
include tables

/-- A FREE spare is named by no entry (R51). -/
theorem Tables.Consistent.not_named_of_free (free : t.spares[k]? = some .free) {e : RemapEntry} (inside : e ∈ t.remap) :
    k ∉ e.state.spares := by
  rw [RemapState.mem_spares_iff]
  rintro (current | target)
  · cases free.symm.trans ((tables.assigned k).2 ⟨e, inside, current⟩)
  · cases free.symm.trans ((tables.target k).2 ⟨e, inside, target⟩)

/-- A spare that one frame's entry names is named by no other frame's (R51). -/
theorem Tables.Consistent.not_named_elsewhere (names : t.Names frame k) {e : RemapEntry} (inside : e ∈ t.remap)
    (other : e.frame ≠ frame) : k ∉ e.state.spares := by
  intro named
  cases entry : t.entryOf frame with
  | none => exact Tables.not_names_of_none entry names
  | some d =>
    obtain ⟨member, rfl⟩ := Tables.entryOf_some entry
    exact other (congrArg _ (tables.entry_unique inside member named ((Tables.names_of_entry entry).1 names)))

/-- The spares that a frame's entry names are in its states (R51). -/
theorem Tables.Consistent.assigned_of_currentOf (current : t.currentOf frame = some k) : t.spares[k]? = some .assigned := by
  obtain ⟨e, entry, named⟩ := Option.bind_eq_some_iff.1 current
  exact tables.assigned_of_entry entry named

end

/-! ### One entry replaced -/

/-- `u` is `t` with the frame's entry replaced by one in state `new`, or by none. Every spare that `new` names was FREE or
already the frame's, and the spares named before or after have their states by R51; the others stand. A migration in `u`
is the one that `new` shows, or another frame's, which stands. -/
structure Tables.Replaces (t u : Tables) (frame : Nat) (new : Option RemapState) : Prop where
  remap : u.remap = new.toList.map (⟨frame, ·⟩) ++ t.remap.filter fun e => !(e.frame == frame)
  distinct : ∀ st, new = some st → st.spares.Nodup
  available : ∀ st, new = some st → ∀ k ∈ st.spares, t.spares[k]? = some .free ∨ t.Names frame k
  changed : ∀ k, t.Names frame k ∨ (∃ st, new = some st ∧ k ∈ st.spares) →
    (u.spares[k]? = some .assigned ↔ new.bind (·.current?) = some k)
      ∧ (u.spares[k]? = some .target ↔ new.bind (·.target?) = some k)
  unchanged : ∀ k, ¬ t.Names frame k → (∀ st, new = some st → k ∉ st.spares) → u.spares[k]? = t.spares[k]?
  unit : ∀ m, u.migration = some m →
    (m.frame = frame ∧ ∃ cursor < 64, new = some (.migrating m.old m.target cursor))
      ∨ (m.frame ≠ frame ∧ t.migration = some m)
  entry : ∀ st, new = some st → st.isMigrating = true → ∃ m, u.migration = some m ∧ m.frame = frame
  others : ∀ m, t.migration = some m → m.frame ≠ frame → u.migration = some m

section
variable {t u : Tables} {frame : Nat} {new : Option RemapState} (tables : t.Consistent) (h : t.Replaces u frame new)
include h

theorem Tables.Replaces.mem_remap {e : RemapEntry} :
    e ∈ u.remap ↔ (∃ st, new = some st ∧ e = ⟨frame, st⟩) ∨ (e ∈ t.remap ∧ e.frame ≠ frame) := by
  rw [h.remap]
  cases new <;> simp

include tables

/-- No other frame's entry names a spare that the frame's entry names, before or after. -/
theorem Tables.Replaces.not_named_elsewhere {k : Nat}
    (touched : t.Names frame k ∨ ∃ st, new = some st ∧ k ∈ st.spares) {e : RemapEntry} (inside : e ∈ t.remap)
    (other : e.frame ≠ frame) : k ∉ e.state.spares := by
  rcases touched with names | ⟨st, put, named⟩
  · exact tables.not_named_elsewhere names inside other
  · rcases h.available st put k named with free | names
    · exact tables.not_named_of_free free inside
    · exact tables.not_named_elsewhere names inside other

/-- A spare has its state exactly where an entry names it in that role, before the change and after it. -/
theorem Tables.Replaces.spares_iff {state : SpareState} {role : RemapState → Option Nat}
    (named : ∀ st k, role st = some k → k ∈ st.spares)
    (before : ∀ k, t.spares[k]? = some state ↔ ∃ e ∈ t.remap, role e.state = some k)
    (changed : ∀ k, t.Names frame k ∨ (∃ st, new = some st ∧ k ∈ st.spares) →
      (u.spares[k]? = some state ↔ new.bind role = some k)) (k : Nat) :
    u.spares[k]? = some state ↔ ∃ e ∈ u.remap, role e.state = some k := by
  simp only [h.mem_remap]
  by_cases touched : t.Names frame k ∨ ∃ st, new = some st ∧ k ∈ st.spares
  · rw [changed k touched, Option.bind_eq_some_iff]
    constructor
    · rintro ⟨st, put, plays⟩
      exact ⟨⟨frame, st⟩, .inl ⟨st, put, rfl⟩, plays⟩
    · rintro ⟨e, ⟨st, put, rfl⟩ | ⟨inside, other⟩, plays⟩
      · exact ⟨st, put, plays⟩
      · exact absurd (named _ _ plays) (h.not_named_elsewhere tables touched inside other)
  · simp only [not_or, not_exists, not_and] at touched
    rw [h.unchanged k touched.1 touched.2, before]
    constructor
    · rintro ⟨e, inside, plays⟩
      refine ⟨e, .inr ⟨inside, ?_⟩, plays⟩
      rintro rfl
      exact touched.1 ((Tables.names_of_entry (tables.entryOf_eq inside)).2 (named _ _ plays))
    · rintro ⟨e, ⟨st, put, rfl⟩ | ⟨inside, other⟩, plays⟩
      · exact absurd (named _ _ plays) (touched.2 st put)
      · exact ⟨e, inside, plays⟩

theorem Tables.Replaces.frames_nodup : (u.remap.map (·.frame)).Nodup := by
  have kept : ((t.remap.filter fun e => !(e.frame == frame)).map (·.frame)).Nodup :=
    tables.frames.sublist (List.filter_sublist.map _)
  rw [h.remap]
  cases new with
  | none => exact kept
  | some st => exact List.nodup_cons.2 ⟨by simp, kept⟩

theorem Tables.Replaces.named_nodup : (u.remap.flatMap (·.state.spares)).Nodup := by
  have kept : ((t.remap.filter fun e => !(e.frame == frame)).flatMap (·.state.spares)).Nodup :=
    tables.named.sublist (List.filter_sublist.flatMap _)
  rw [h.remap]
  cases put : new with
  | none => exact kept
  | some st =>
    refine List.nodup_append.2 ⟨h.distinct st put, kept, fun k here j elsewhere same => ?_⟩
    subst same
    obtain ⟨e, kept, named⟩ := List.mem_flatMap.1 elsewhere
    obtain ⟨inside, other⟩ := List.mem_filter.1 kept
    exact h.not_named_elsewhere tables (.inr ⟨st, put, here⟩) inside (by simpa using other) named

/-- The laws of R51 stand when one entry is replaced. -/
theorem Tables.Replaces.consistent : u.Consistent where
  frames := h.frames_nodup tables
  named := h.named_nodup tables
  assigned := h.spares_iff tables (fun _ _ => RemapState.current_mem_spares) tables.assigned fun k touched =>
    (h.changed k touched).1
  target := h.spares_iff tables (fun _ _ => RemapState.target_mem_spares) tables.target fun k touched =>
    (h.changed k touched).2
  unit m copying := by
    rcases h.unit m copying with ⟨rfl, cursor, inFrame, put⟩ | ⟨other, before⟩
    · exact ⟨cursor, inFrame, h.mem_remap.2 (.inl ⟨_, put, rfl⟩)⟩
    · obtain ⟨cursor, inFrame, inside⟩ := tables.unit m before
      exact ⟨cursor, inFrame, h.mem_remap.2 (.inr ⟨inside, other⟩)⟩
  entry e inside migrating := by
    rcases h.mem_remap.1 inside with ⟨st, put, rfl⟩ | ⟨member, other⟩
    · exact h.entry st put migrating
    · obtain ⟨m, copying, mine⟩ := tables.entry e member migrating
      exact ⟨m, h.others m copying (mine ▸ other), mine⟩

end

/-! ### The operations on the Remap Table and the Spare Pool -/

section
variable {t : Tables} (tables : t.Consistent)
include tables

/-- A request's frame gets a MIGRATING entry on a FREE spare while the unit is IDLE (R74). -/
theorem Tables.Consistent.started (r : RetireRequest) {k : Nat} (idle : t.migration = none)
    (free : t.spares[k]? = some .free) : (t.started r k).Consistent := by
  have noTarget : t.targetOf r.frame = none := Tables.targetOf_eq_none fun e entry =>
    Bool.eq_false_iff.2 fun migrating => by
      obtain ⟨m, copying, -⟩ := (tables.migrating_iff entry).1 migrating
      cases idle.symm.trans copying
  have names (j : Nat) : t.Names r.frame j ↔ t.currentOf r.frame = some j := by simp [Tables.Names, noTarget]
  have freeIsNew {j : Nat} (current : t.currentOf r.frame = some j) : k ≠ j := by
    rintro rfl
    cases free.symm.trans (tables.assigned_of_currentOf current)
  obtain ⟨inside, -⟩ := List.getElem?_eq_some_iff.1 free
  refine Tables.Replaces.consistent (new := some (.migrating (t.currentOf r.frame) k 0)) (frame := r.frame) tables
    ⟨rfl, ?_, ?_, ?_, ?_, ?_, ?_, ?_⟩
  · rintro _ ⟨⟩
    cases current : t.currentOf r.frame with
    | none => simp [RemapState.spares]
    | some c => simpa [RemapState.spares] using (freeIsNew current).symm
  · rintro _ ⟨⟩ j named
    rcases RemapState.mem_spares_iff.1 named with current | target
    · exact .inr ((names j).2 current)
    · cases target
      exact .inl free
  · intro j touched
    have either : j = k ∨ t.currentOf r.frame = some j := by
      rcases touched with named | ⟨_, ⟨⟩, named⟩
      · exact .inr ((names j).1 named)
      · rcases RemapState.mem_spares_iff.1 named with current | target
        · exact .inr current
        · cases target
          exact .inl rfl
    show ((t.spares.set k .target)[j]? = _ ↔ t.currentOf r.frame = some j)
      ∧ ((t.spares.set k .target)[j]? = _ ↔ some k = some j)
    rcases either with rfl | current
    · have notCurrent : t.currentOf r.frame ≠ some j := fun current => freeIsNew current rfl
      simp [List.getElem?_set_self inside, notCurrent]
    · have other := freeIsNew current
      simp [List.getElem?_set_ne other, tables.assigned_of_currentOf current, current, other]
  · intro j notNamed notNew
    have other : k ≠ j := by
      rintro rfl
      exact notNew _ rfl (RemapState.mem_spares_iff.2 (.inr rfl))
    exact List.getElem?_set_ne other
  · rintro m ⟨⟩
    exact .inl ⟨rfl, 0, by decide, rfl⟩
  · rintro _ ⟨⟩ -
    exact ⟨_, rfl, rfl⟩
  · intro m copying
    cases idle.symm.trans copying

/-- INSTALL gives a frame without an entry an ACTIVE one on a FREE spare (R57). -/
theorem Tables.Consistent.installed {frame k : Nat} (free : t.spares[k]? = some .free) (absent : t.entryOf frame = none) :
    ((t.putEntry frame (.active k)).setSpare k .assigned).Consistent := by
  have notNamed (j : Nat) : ¬ t.Names frame j := Tables.not_names_of_none absent
  have otherFrame {m : MigrationRecord} (copying : t.migration = some m) : m.frame ≠ frame := by
    rintro rfl
    obtain ⟨cursor, -, member⟩ := tables.unit m copying
    cases absent.symm.trans (tables.entryOf_eq member)
  obtain ⟨inside, -⟩ := List.getElem?_eq_some_iff.1 free
  refine Tables.Replaces.consistent (new := some (.active k)) (frame := frame) tables ⟨rfl, ?_, ?_, ?_, ?_, ?_, ?_, ?_⟩
  · rintro _ ⟨⟩
    simp [RemapState.spares]
  · rintro _ ⟨⟩ j named
    obtain rfl : j = k := by simpa [RemapState.spares] using named
    exact .inl free
  · rintro j (named | ⟨_, ⟨⟩, named⟩)
    · exact absurd named (notNamed j)
    · obtain rfl : j = k := by simpa [RemapState.spares] using named
      simp [List.getElem?_set_self inside, RemapState.current?, RemapState.target?]
  · intro j _ notNew
    have other : k ≠ j := by
      rintro rfl
      exact notNew _ rfl (by simp [RemapState.spares])
    exact List.getElem?_set_ne other
  · exact fun m copying => .inr ⟨otherFrame copying, copying⟩
  · rintro _ ⟨⟩ ⟨⟩
  · exact fun m copying _ => copying

/-- A FREE spare becomes FAILED (R58). -/
theorem Tables.Consistent.withdrawn {k : Nat} (free : t.spares[k]? = some .free) :
    (t.setSpare k .failed).Consistent := by
  obtain ⟨inside, -⟩ := List.getElem?_eq_some_iff.1 free
  have stands (state : SpareState) (notFree : state ≠ .free) (notFailed : state ≠ .failed) (j : Nat) :
      (t.spares.set k .failed)[j]? = some state ↔ t.spares[j]? = some state := by
    by_cases here : k = j
    · subst here
      simp [List.getElem?_set_self inside, free, notFree.symm, notFailed.symm]
    · rw [List.getElem?_set_ne here]
  exact { tables with
    assigned := fun j => (stands .assigned (by decide) (by decide) j).trans (tables.assigned j)
    target := fun j => (stands .target (by decide) (by decide) j).trans (tables.target j) }

/-! The migration in progress, by its record. -/

section
variable {m : MigrationRecord} (copying : t.migration = some m)
include copying

theorem Tables.Consistent.entryOf_migrating : ∃ cursor < 64,
    t.entryOf m.frame = some ⟨m.frame, .migrating m.old m.target cursor⟩ := by
  obtain ⟨cursor, inFrame, member⟩ := tables.unit m copying
  exact ⟨cursor, inFrame, tables.entryOf_eq member⟩

theorem Tables.Consistent.names_migrating (k : Nat) : t.Names m.frame k ↔ m.old = some k ∨ m.target = k := by
  obtain ⟨cursor, -, entry⟩ := tables.entryOf_migrating copying
  simp [Tables.Names, Tables.currentOf, Tables.targetOf, entry, RemapState.current?, RemapState.target?]

theorem Tables.Consistent.target_state : t.spares[m.target]? = some .target :=
  (tables.target_iff m.target).2 ⟨m, copying, rfl⟩

theorem Tables.Consistent.old_state {c : Nat} (old : m.old = some c) : t.spares[c]? = some .assigned := by
  obtain ⟨cursor, -, entry⟩ := tables.entryOf_migrating copying
  exact tables.assigned_of_entry entry old

theorem Tables.Consistent.target_ne_old {c : Nat} (old : m.old = some c) : m.target ≠ c := by
  intro same
  have target := tables.target_state copying
  rw [same] at target
  cases target.symm.trans (tables.old_state copying old)

/-- The spares of the migrating frame's entry stand, its cursor moves (R76). -/
theorem Tables.Consistent.advanced {n : MigrationRecord} {cursor : Nat} (frame : n.frame = m.frame) (old : n.old = m.old)
    (target : n.target = m.target) (inFrame : cursor < 64) :
    { t.putEntry m.frame (.migrating m.old m.target cursor) with migration := some n : Tables }.Consistent := by
  have same (k : Nat) : t.Names m.frame k ↔ k ∈ (RemapState.migrating m.old m.target cursor).spares :=
    (tables.names_migrating copying k).trans (by simp [RemapState.mem_spares_iff, RemapState.current?, RemapState.target?])
  refine Tables.Replaces.consistent (new := some (.migrating m.old m.target cursor)) (frame := m.frame) tables
    ⟨rfl, ?_, ?_, ?_, fun _ _ _ => rfl, ?_, ?_, ?_⟩
  · rintro _ ⟨⟩
    cases held : m.old with
    | none => simp [RemapState.spares]
    | some c => simpa [RemapState.spares] using (tables.target_ne_old copying held).symm
  · rintro _ ⟨⟩ k named
    exact .inr ((same k).2 named)
  · intro k touched
    have named : m.old = some k ∨ m.target = k := by
      rcases touched with named | ⟨_, ⟨⟩, named⟩
      · exact (tables.names_migrating copying k).1 named
      · exact (tables.names_migrating copying k).1 ((same k).2 named)
    show (t.spares[k]? = _ ↔ m.old = some k) ∧ (t.spares[k]? = _ ↔ some m.target = some k)
    rcases named with held | rfl
    · simp [tables.old_state copying held, held, tables.target_ne_old copying held]
    · have notOld : m.old ≠ some m.target := fun held => tables.target_ne_old copying held rfl
      simp [tables.target_state copying, notOld]
  · rintro _ ⟨⟩
    exact .inl ⟨frame, cursor, inFrame, by rw [old, target]⟩
  · exact fun _ _ _ => ⟨n, rfl, frame⟩
  · intro x copying' other
    cases copying.symm.trans copying'
    exact absurd rfl other

/-- The unit gives its migration up: whatever entry the frame is left with is ACTIVE on one of the spares its MIGRATING
entry named, and these two spares have the states that this entry gives them (R78, R83). -/
theorem Tables.Consistent.givenUp {u : Tables} (kept : Option Nat) (named : ∀ k, kept = some k → m.old = some k ∨ m.target = k)
    (remap : u.remap = (kept.map RemapState.active).toList.map (⟨m.frame, ·⟩)
      ++ t.remap.filter fun e => !(e.frame == m.frame))
    (changed : ∀ k, m.old = some k ∨ m.target = k →
      (u.spares[k]? = some .assigned ↔ kept = some k) ∧ u.spares[k]? ≠ some .target)
    (unchanged : ∀ k, m.old ≠ some k → m.target ≠ k → u.spares[k]? = t.spares[k]?)
    (idle : u.migration = none) : u.Consistent := by
  have names := tables.names_migrating copying
  have put {st : RemapState} {k : Nat} (new : kept.map RemapState.active = some st) (inside : k ∈ st.spares) :
      kept = some k := by
    obtain ⟨c, held, rfl⟩ := Option.map_eq_some_iff.1 new
    obtain rfl : k = c := by simpa [RemapState.spares] using inside
    exact held
  refine Tables.Replaces.consistent (new := kept.map .active) (frame := m.frame) tables ⟨remap, ?_, ?_, ?_, ?_, ?_, ?_, ?_⟩
  · intro st new
    obtain ⟨c, -, rfl⟩ := Option.map_eq_some_iff.1 new
    simp [RemapState.spares]
  · exact fun st new k inside => .inr ((names k).2 (named k (put new inside)))
  · intro k touched
    have mine : m.old = some k ∨ m.target = k := by
      rcases touched with before | ⟨st, new, inside⟩
      · exact (names k).1 before
      · exact named k (put new inside)
    obtain ⟨assigned, notTarget⟩ := changed k mine
    have current : (kept.map RemapState.active).bind (·.current?) = kept := by cases kept <;> rfl
    have target : (kept.map RemapState.active).bind (·.target?) = none := by cases kept <;> rfl
    rw [current, target]
    exact ⟨assigned, by simpa using notTarget⟩
  · intro k notNamed _
    rw [names, not_or] at notNamed
    exact unchanged k notNamed.1 notNamed.2
  · intro n copying'
    cases idle.symm.trans copying'
  · intro st new migrating
    obtain ⟨c, -, rfl⟩ := Option.map_eq_some_iff.1 new
    cases migrating
  · intro n copying' other
    cases copying.symm.trans copying'
    exact absurd rfl other

/-- A cut-over leaves the frame ACTIVE on its target, and an old spare FAILED (R78). -/
theorem Tables.Consistent.retired : (t.retired m).Consistent := by
  have inside := (List.getElem?_eq_some_iff.1 (tables.target_state copying)).1
  have remap : (t.retired m).remap = (t.putEntry m.frame (.active m.target)).remap := by
    unfold Tables.retired Tables.cutOver Tables.failOld
    cases m.old <;> rfl
  refine tables.givenUp copying (some m.target) (by simp) remap (fun k mine => ?_) (fun k notOld notTarget => ?_) rfl
  all_goals rw [t.retired_spares, Tables.retiredSpares]
  · cases old : m.old with
    | none =>
      obtain rfl : m.target = k := by simpa [old] using mine
      simp [List.getElem?_set_self inside]
    | some c =>
      have other := tables.target_ne_old copying old
      have oldInside := (List.getElem?_eq_some_iff.1 (tables.old_state copying old)).1
      rw [old, Option.some.injEq] at mine
      rcases mine with rfl | rfl
      · simp [oldInside, other]
      · simp [List.getElem?_set_ne other.symm, List.getElem?_set_self inside]
  · cases old : m.old with
    | none => exact List.getElem?_set_ne notTarget
    | some c =>
      have other : c ≠ k := fun same => notOld (same ▸ old)
      exact (List.getElem?_set_ne other).trans (List.getElem?_set_ne notTarget)

/-- A reverted migration leaves the frame to its source alone, and the target FREE (R63, R83, R84). -/
theorem Tables.Consistent.reverted : (t.revert m).Consistent := by
  have inside := (List.getElem?_eq_some_iff.1 (tables.target_state copying)).1
  have remap : (t.revert m).remap = (m.old.map RemapState.active).toList.map (⟨m.frame, ·⟩)
      ++ t.remap.filter fun e => !(e.frame == m.frame) := by
    unfold Tables.revert
    cases m.old <;> rfl
  refine tables.givenUp copying m.old (fun k => .inl) remap (fun k mine => ?_) (fun k _ notTarget => ?_)
    (t.revert_migration m)
  all_goals rw [t.revert_spares]
  · rcases mine with old | rfl
    · have other := tables.target_ne_old copying old
      simp [List.getElem?_set_ne other, tables.old_state copying old, old]
    · have notOld : m.old ≠ some m.target := fun old => tables.target_ne_old copying old rfl
      simp [List.getElem?_set_self inside, notOld]
  · exact List.getElem?_set_ne notTarget

end

/-- The laws of R51 look at the Remap Table, the spares and the unit's record alone. -/
theorem Tables.Consistent.congr {u : Tables} (remap : u.remap = t.remap) (spares : u.spares = t.spares)
    (migration : u.migration = t.migration) : u.Consistent := by
  obtain ⟨frames, named, assigned, target, unit, entry⟩ := tables
  constructor <;> simpa only [remap, spares, migration]

/-- An engine reset reverts a migration in progress (R84). -/
theorem Tables.Consistent.engineReset : t.engineReset.Consistent := by
  unfold Tables.engineReset
  cases copying : t.migration with
  | none => exact tables.congr rfl rfl rfl
  | some m => exact (tables.reverted copying).congr rfl rfl rfl

end

end Sys2Proof.Machine
end

section
/-!
The Suspect Table beside the Retire Queue and the Migration Unit (R66, R69, R89): an entry is QUEUED or MIGRATING exactly as
its frame stands, through each operation on the tables.
-/

namespace Sys2Proof.Machine

/-- The Retire Queue holds a request for the frame (R66). -/
def Tables.Queues (t : Tables) (frame : Nat) : Prop := ∃ r ∈ t.retireQueue, r.frame = frame

/-- The Migration Unit copies the frame (R71). -/
def Tables.Copies (t : Tables) (frame : Nat) : Prop := ∃ m, t.migration = some m ∧ m.frame = frame

/-- One request per frame and none for the frame that is copied (R66); one suspect entry per frame (R89), QUEUED or MIGRATING
exactly as its frame stands (R69). -/
structure Tables.Tracked (t : Tables) : Prop where
  suspects : t.SuspectsDistinct
  queueFrames : (t.retireQueue.map (·.frame)).Nodup
  apart : ∀ frame, t.Queues frame → ¬ t.Copies frame
  queued : ∀ e, some e ∈ t.suspects → (e.retire = .queued ↔ t.Queues e.frame)
  migrating : ∀ e, some e ∈ t.suspects → (e.retire = .migrating ↔ t.Copies e.frame)

/-- Only the record's frame is copied. -/
theorem Tables.copies_iff {t : Tables} {m : MigrationRecord} (copying : t.migration = some m) (frame : Nat) :
    t.Copies frame ↔ m.frame = frame := by simp [Tables.Copies, copying]

/-- A MIGRATING entry and a copied frame are one (R51). -/
theorem Tables.Consistent.migratingFrame_iff_copies {t : Tables} (tables : t.Consistent) (frame : Nat) :
    t.migratingFrame = some frame ↔ t.Copies frame := by
  rw [tables.migratingFrame_iff]
  constructor
  · rintro ⟨current, target, cursor, inside⟩
    exact tables.entry _ inside rfl
  · rintro ⟨m, copying, rfl⟩
    obtain ⟨cursor, -, inside⟩ := tables.unit m copying
    exact ⟨_, _, cursor, inside⟩

/-! ### One entry per frame, place by place (R89) -/

theorem Tables.suspectsDistinct_iff {t : Tables} : t.SuspectsDistinct ↔ ∀ (i j : Nat) (d e : SuspectEntry),
    t.suspects[i]? = some (some d) → t.suspects[j]? = some (some e) → d.frame = e.frame → i = j := by
  have one (p : Option SuspectEntry) : p.toList.Pairwise fun d e => d.frame ≠ e.frame := by cases p <;> simp
  rw [Tables.SuspectsDistinct, List.Nodup, List.pairwise_map, List.pairwise_flatMap]
  simp only [one, implies_true, true_and, Option.mem_toList, List.pairwise_iff_getElem]
  constructor
  · intro apart i j d e here there same
    obtain ⟨hi, place⟩ := List.getElem?_eq_some_iff.1 here
    obtain ⟨hj, place'⟩ := List.getElem?_eq_some_iff.1 there
    rcases Nat.lt_trichotomy i j with below | eq | above
    · exact absurd same (apart i j hi hj below d place e place')
    · exact eq
    · exact absurd same.symm (apart j i hj hi above e place' d place)
  · intro unique i j hi hj below d place e place' same
    exact absurd (unique i j d e (List.getElem?_eq_some_iff.2 ⟨hi, place⟩) (List.getElem?_eq_some_iff.2 ⟨hj, place'⟩) same)
      (Nat.ne_of_lt below)

/-! ### The table changed entry by entry -/

section
variable {t u : Tables} (h : t.Tracked)
include h

/-- Every entry changes for itself or goes, and keeps its frame; what becomes of it follows its frame. -/
theorem Tables.Tracked.change (g : SuspectEntry → Option SuspectEntry) (suspects : u.suspects = t.suspects.map (·.bind g))
    (frame : ∀ e d, g e = some d → d.frame = e.frame) (queueFrames : (u.retireQueue.map (·.frame)).Nodup)
    (apart : ∀ frame, u.Queues frame → ¬ u.Copies frame)
    (follows : ∀ e d, some e ∈ t.suspects → g e = some d →
      (d.retire = .queued ↔ u.Queues e.frame) ∧ (d.retire = .migrating ↔ u.Copies e.frame)) : u.Tracked := by
  have source {d : SuspectEntry} (inside : some d ∈ u.suspects) : ∃ e, some e ∈ t.suspects ∧ g e = some d := by
    rw [suspects, List.mem_map] at inside
    obtain ⟨p, member, became⟩ := inside
    obtain ⟨e, rfl, became⟩ := Option.bind_eq_some_iff.1 became
    exact ⟨e, member, became⟩
  have place {i : Nat} {d : SuspectEntry} (here : u.suspects[i]? = some (some d)) :
      ∃ e, t.suspects[i]? = some (some e) ∧ g e = some d := by
    rw [suspects, List.getElem?_map, Option.map_eq_some_iff] at here
    obtain ⟨p, before, became⟩ := here
    obtain ⟨e, rfl, became⟩ := Option.bind_eq_some_iff.1 became
    exact ⟨e, before, became⟩
  refine ⟨Tables.suspectsDistinct_iff.2 fun i j d d' here there same => ?_, queueFrames, apart, fun d inside => ?_,
    fun d inside => ?_⟩
  · obtain ⟨e, before, became⟩ := place here
    obtain ⟨e', before', became'⟩ := place there
    exact Tables.suspectsDistinct_iff.1 h.suspects i j e e' before before'
      (by rw [← frame e d became, ← frame e' d' became', same])
  · obtain ⟨e, member, became⟩ := source inside
    rw [frame e d became]
    exact (follows e d member became).1
  · obtain ⟨e, member, became⟩ := source inside
    rw [frame e d became]
    exact (follows e d member became).2

/-- The queue and the unit stand; entries change in nothing that counts here, or go. -/
theorem Tables.Tracked.thin (g : SuspectEntry → Option SuspectEntry) (suspects : u.suspects = t.suspects.map (·.bind g))
    (same : ∀ e d, g e = some d → d.frame = e.frame ∧ d.retire = e.retire) (queue : u.retireQueue = t.retireQueue)
    (copies : ∀ frame, u.Copies frame ↔ t.Copies frame) : u.Tracked := by
  have queues (frame : Nat) : u.Queues frame ↔ t.Queues frame := by rw [Tables.Queues, queue, Tables.Queues]
  refine h.change g suspects (fun e d became => (same e d became).1) (queue ▸ h.queueFrames)
    (fun frame waits => (copies frame).not.2 (h.apart frame ((queues frame).1 waits))) fun e d inside became => ?_
  rw [(same e d became).2, queues, copies]
  exact ⟨h.queued e inside, h.migrating e inside⟩

/-- The Suspect Table, the queue and the copied frame stand. -/
theorem Tables.Tracked.congr (suspects : u.suspects = t.suspects) (queue : u.retireQueue = t.retireQueue)
    (copies : ∀ frame, u.Copies frame ↔ t.Copies frame) : u.Tracked :=
  h.thin some (by simp [suspects]) (by rintro _ _ ⟨⟩; exact ⟨rfl, rfl⟩) queue copies

/-- One frame's entry takes the retire state that the frame then has, and no other frame's standing changes (R69). -/
theorem Tables.Tracked.setRetire (frame : Nat) (st : RetireState) (suspects : u.suspects = (t.setRetire frame st).suspects)
    (queueFrames : (u.retireQueue.map (·.frame)).Nodup)
    (queues : ∀ f, f ≠ frame → (u.Queues f ↔ t.Queues f)) (copies : ∀ f, f ≠ frame → (u.Copies f ↔ t.Copies f))
    (queued : st = .queued ↔ u.Queues frame) (migrating : st = .migrating ↔ u.Copies frame) : u.Tracked := by
  refine h.change (fun e => some (if e.frame = frame then { e with retire := st } else e)) ?_ ?_ queueFrames
    (fun f waits copied => ?_) fun e d inside became => ?_
  · rw [suspects, Tables.setRetire]
    refine List.map_congr_left fun p _ => ?_
    cases p <;> rfl
  · rintro e _ ⟨⟩
    split <;> rfl
  · by_cases mine : f = frame
    · subst mine
      cases (queued.2 waits).symm.trans (migrating.2 copied)
    · exact h.apart f ((queues f mine).1 waits) ((copies f mine).1 copied)
  · cases became
    by_cases mine : e.frame = frame
    · rw [if_pos mine, mine]
      exact ⟨queued, migrating⟩
    · rw [if_neg mine, queues _ mine, copies _ mine]
      exact ⟨h.queued e inside, h.migrating e inside⟩

/-! ### The operations on the tables -/

theorem Tables.Tracked.removeSuspect (frame : Nat) : (t.removeSuspect frame).Tracked := by
  refine h.thin (fun e => if e.frame = frame then none else some e) ?_ ?_ rfl fun _ => Iff.rfl
  · refine List.map_congr_left fun p _ => ?_
    rcases p with _ | e
    · rfl
    · by_cases mine : e.frame = frame <;> simp [mine]
  · intro e d became
    split at became
    · cases became
    · cases became
      exact ⟨rfl, rfl⟩

theorem Tables.Tracked.decay : t.decay.Tracked := by
  refine h.thin SuspectEntry.decayed rfl (fun e d became => ?_) rfl fun _ => Iff.rfl
  rw [SuspectEntry.decayed_eq] at became
  split at became
  · cases became
  · cases became
    exact ⟨rfl, rfl⟩

/-- The frame of a request that heads the queue stands in it once (R66). -/
theorem Tables.Tracked.not_queues_rest {r : RetireRequest} {rest : List RetireRequest} (queue : t.retireQueue = r :: rest) :
    ¬ ∃ q ∈ rest, q.frame = r.frame := by
  have frames := h.queueFrames
  rw [queue, List.map_cons, List.nodup_cons] at frames
  simpa using frames.1

theorem Tables.Tracked.rest_nodup {r : RetireRequest} {rest : List RetireRequest} (queue : t.retireQueue = r :: rest) :
    (rest.map (·.frame)).Nodup := by
  have frames := h.queueFrames
  rw [queue, List.map_cons, List.nodup_cons] at frames
  exact frames.2

/-- The head request leaves the queue, and its frame is REFUSED (R73). -/
theorem Tables.Tracked.refused {r : RetireRequest} {rest : List RetireRequest} (queue : t.retireQueue = r :: rest) :
    (({ t with retireQueue := rest } : Tables).setRetire r.frame .refused).Tracked := by
  have notCopied : ¬ t.Copies r.frame := h.apart _ ⟨r, by simp [queue], rfl⟩
  refine h.setRetire r.frame .refused rfl (h.rest_nodup queue) (fun f other => ?_) (fun _ _ => Iff.rfl) ?_ ?_
  · simp [Tables.Queues, queue, other.symm]
  · simpa [Tables.Queues] using h.not_queues_rest queue
  · simpa [Tables.Copies] using notCopied

/-- The head request leaves the queue for the IDLE unit, and its frame is MIGRATING (R74). -/
theorem Tables.Tracked.started {r : RetireRequest} {rest : List RetireRequest} (queue : t.retireQueue = r :: rest) (k : Nat)
    (idle : t.migration = none) : (({ t with retireQueue := rest } : Tables).started r k).Tracked := by
  refine h.setRetire r.frame .migrating rfl (h.rest_nodup queue) (fun f other => ?_) (fun f other => ?_) ?_ ?_
  · simp [Tables.Queues, Tables.started, queue, other.symm]
  · simp [Tables.Copies, Tables.started, idle, other.symm]
  · simpa [Tables.Queues, Tables.started] using h.not_queues_rest queue
  · simp [Tables.Copies, Tables.started]

/-- A request for a frame neither queued nor copied joins the queue, and its frame is QUEUED (R67, R69). -/
theorem Tables.Tracked.joined {r : RetireRequest} (notQueued : ¬ t.Queues r.frame) (notCopied : ¬ t.Copies r.frame) :
    (({ t with retireQueue := t.retireQueue ++ [r] } : Tables).setRetire r.frame .queued).Tracked := by
  refine h.setRetire r.frame .queued rfl ?_ (fun f other => ?_) (fun _ _ => Iff.rfl) ?_ ?_
  · simp only [Tables.setRetire_retireQueue, List.map_append, List.map_cons, List.map_nil]
    refine List.nodup_append.2 ⟨h.queueFrames, List.nodup_singleton _, fun f inside g last same => notQueued ?_⟩
    obtain ⟨q, member, rfl⟩ := List.mem_map.1 inside
    exact ⟨q, member, same.trans (List.mem_singleton.1 last)⟩
  · simp [Tables.Queues, or_and_right, exists_or, other.symm]
  · simp [Tables.Queues]
  · simpa [Tables.Copies] using notCopied

/-- A queued request is withdrawn, and its frame is NONE (R82). -/
theorem Tables.Tracked.abortedQueued {r : RetireRequest} (inside : r ∈ t.retireQueue) :
    (({ t with retireQueue := t.retireQueue.filter fun q => !(q.frame == r.frame) } : Tables).setRetire r.frame
      .none).Tracked := by
  have notCopied : ¬ t.Copies r.frame := h.apart _ ⟨r, inside, rfl⟩
  refine h.setRetire r.frame .none rfl ?_ (fun f other => ?_) (fun _ _ => Iff.rfl) ?_ ?_
  · exact h.queueFrames.sublist (List.filter_sublist.map _)
  · simp only [Tables.Queues, Tables.setRetire_retireQueue, List.mem_filter]
    refine exists_congr fun q => ⟨fun ⟨⟨member, _⟩, mine⟩ => ⟨member, mine⟩, fun ⟨member, mine⟩ => ⟨⟨member, ?_⟩, mine⟩⟩
    simpa [mine] using other
  · simp [Tables.Queues]
  · simpa [Tables.Copies] using notCopied

section
variable {m : MigrationRecord} (copying : t.migration = some m)
include copying

theorem Tables.Tracked.not_queues_copied : ¬ t.Queues m.frame := fun waits => h.apart _ waits ⟨m, copying, rfl⟩

/-- The migration is aborted, and its frame is NONE (R83). -/
theorem Tables.Tracked.aborted : (t.aborted m).Tracked := by
  refine h.setRetire m.frame .none rfl h.queueFrames (fun _ _ => Iff.rfl) (fun f other => ?_) ?_ ?_
  · simp [Tables.Copies, Tables.aborted, copying, other.symm]
  · simpa [Tables.Queues, Tables.aborted] using h.not_queues_copied copying
  · simp [Tables.Copies, Tables.aborted]

/-- A cut-over removes its frame's entry and leaves the unit IDLE (R79). -/
theorem Tables.Tracked.retired : (t.retired m).Tracked := by
  have idle (frame : Nat) : ¬ (t.retired m).Copies frame := by simp [Tables.Copies]
  have queues (frame : Nat) : (t.retired m).Queues frame ↔ t.Queues frame := by
    rw [Tables.Queues, t.retired_retireQueue m, Tables.Queues]
  refine h.change (fun e => if e.frame = m.frame then none else some e) ?_ ?_ (by simpa using h.queueFrames)
    (fun frame _ => idle frame) fun e d inside became => ?_
  · rw [t.retired_suspects, Tables.removeSuspect]
    refine List.map_congr_left fun p _ => ?_
    rcases p with _ | e
    · rfl
    · by_cases mine : e.frame = m.frame <;> simp [mine]
  · intro e d became
    split at became
    · cases became
    · cases became
      rfl
  · split at became
    · cases became
    · rename_i other
      cases became
      have notCopied : ¬ t.Copies e.frame := by rw [Tables.copies_iff copying]; exact Ne.symm other
      exact ⟨(h.queued e inside).trans (queues _).symm, ((h.migrating e inside).trans (iff_of_false notCopied (idle _)))⟩

end

/-- An engine reset empties the queue, leaves the unit IDLE and unpins every entry (R84, R99). -/
theorem Tables.Tracked.engineReset : t.engineReset.Tracked := by
  have queues (frame : Nat) : ¬ t.engineReset.Queues frame := by rw [Tables.engineReset_eq]; simp [Tables.Queues]
  have copies (frame : Nat) : ¬ t.engineReset.Copies frame := by rw [Tables.engineReset_eq]; simp [Tables.Copies]
  refine h.change (fun e => some e.unpin) ?_ ?_ (by rw [Tables.engineReset_eq]; exact List.nodup_nil)
    (fun frame _ => copies frame) fun e d _ became => ?_
  · rw [Tables.engineReset_eq]
    refine List.map_congr_left fun p _ => ?_
    cases p <;> rfl
  · rintro e _ ⟨⟩
    rw [SuspectEntry.unpin_eq]
  · cases became
    rw [SuspectEntry.unpin_eq]
    exact ⟨iff_of_false (by dsimp only; split <;> simp) (queues _), iff_of_false (by dsimp only; split <;> simp) (copies _)⟩

end

/-! ### A detection entered (R91, R92) -/

section
variable {t : Tables} (tables : t.Consistent) (h : t.Tracked) (line word : Nat) (uncorrectable : Bool)

theorem Tables.detected_frame : (t.detected line word uncorrectable).frame = line / 64 := by
  unfold Tables.detected
  cases entry : t.suspectOf (line / 64) with
  | none => rfl
  | some e =>
    have mine : e.frame = line / 64 := t.suspectOf_frame entry
    exact mine

include h

/-- The one place that holds an entry of the frame is the one that a detection takes (R89, R91). -/
theorem Tables.Tracked.placeFor_eq {j : Nat} {e : SuspectEntry} (here : t.suspects[j]? = some (some e)) :
    t.placeFor e.frame = j := by
  unfold Tables.placeFor
  cases place : t.suspectPlace e.frame with
  | none => exact absurd rfl (Tables.suspectPlace_none place here)
  | some i =>
    obtain ⟨d, there, same, -⟩ := Tables.suspectPlace_some place
    exact Tables.suspectsDistinct_iff.1 h.suspects i j d e there here same

include tables

/-- What a detection leaves in the frame's entry follows the frame's standing: an entry there keeps its state, and a new one
takes it (R91, R92). -/
theorem Tables.Tracked.detected_retire :
    ((t.detected line word uncorrectable).retire = .queued ↔ t.Queues (line / 64))
      ∧ ((t.detected line word uncorrectable).retire = .migrating ↔ t.Copies (line / 64)) := by
  unfold Tables.detected
  cases entry : t.suspectOf (line / 64) with
  | some e =>
    obtain ⟨i, here, -⟩ := Tables.suspectOf_place entry
    have inside := List.mem_of_getElem? (placeAt_eq_some.1 here)
    have mine := t.suspectOf_frame entry
    exact mine ▸ ⟨h.queued e inside, h.migrating e inside⟩
  | none =>
    have queues : t.queued (line / 64) = true ↔ t.Queues (line / 64) := by simp [Tables.queued, Tables.Queues]
    show (t.freshRetire (line / 64) = _ ↔ _) ∧ (t.freshRetire (line / 64) = _ ↔ _)
    have copies := tables.migratingFrame_iff_copies (line / 64)
    unfold Tables.freshRetire
    by_cases copied : t.Copies (line / 64)
    · have notQueued : ¬ t.Queues (line / 64) := fun waits => h.apart _ waits copied
      simp [copies.2 copied, copied, notQueued]
    · by_cases waits : t.Queues (line / 64)
      · simp [mt copies.1 copied, queues.2 waits, copied, waits]
      · simp [mt copies.1 copied, mt queues.1 waits, copied, waits]

/-- A detection puts the frame's one entry (R90 to R92). -/
theorem Tables.Tracked.enter : (t.enter line word uncorrectable).Tracked := by
  rw [Tables.enter_eq_set]
  have mine := t.detected_frame line word uncorrectable
  have source {i : Nat} {d : SuspectEntry} (here : (t.suspects.set (t.placeFor (line / 64))
      (some (t.detected line word uncorrectable)))[i]? = some (some d)) :
      (i = t.placeFor (line / 64) ∧ d = t.detected line word uncorrectable)
        ∨ (i ≠ t.placeFor (line / 64) ∧ t.suspects[i]? = some (some d)) := by
    by_cases place : i = t.placeFor (line / 64)
    · subst place
      have inside := (List.getElem?_eq_some_iff.1 here).1
      rw [List.length_set] at inside
      rw [List.getElem?_set_self inside] at here
      cases here
      exact .inl ⟨rfl, rfl⟩
    · rw [List.getElem?_set_ne (Ne.symm place)] at here
      exact .inr ⟨place, here⟩
  have member {d : SuspectEntry} (inside : some d ∈ t.suspects.set (t.placeFor (line / 64))
      (some (t.detected line word uncorrectable))) : d = t.detected line word uncorrectable ∨ some d ∈ t.suspects := by
    rcases List.mem_or_eq_of_mem_set inside with before | new
    · exact .inr before
    · exact .inl (Option.some.inj new)
  refine ⟨Tables.suspectsDistinct_iff.2 fun i j d e here there same => ?_, h.queueFrames, h.apart, fun d inside => ?_,
    fun d inside => ?_⟩
  · rcases source here with ⟨rfl, rfl⟩ | ⟨notHere, before⟩ <;> rcases source there with ⟨rfl, rfl⟩ | ⟨notThere, before'⟩
    · rfl
    · rw [mine] at same
      exact absurd (h.placeFor_eq before').symm (same ▸ notThere)
    · rw [mine] at same
      exact absurd (h.placeFor_eq before).symm (same ▸ notHere)
    · exact Tables.suspectsDistinct_iff.1 h.suspects i j d e before before' same
  · rcases member inside with rfl | before
    · rw [mine]
      exact (h.detected_retire tables line word uncorrectable).1
    · exact h.queued d before
  · rcases member inside with rfl | before
    · rw [mine]
      exact (h.detected_retire tables line word uncorrectable).2
    · exact h.migrating d before

end

end Sys2Proof.Machine
end

section
/-!
The laws of a retirement within a happening (R51, R66, R69, R72, R89): what they ask of a change to one group of the state,
and that accounting, the start of migrations and the Migration Unit's own work keep them.
-/

namespace Sys2Proof.Machine

/-! ### The tables -/

/-- The laws of a retirement that the tables alone decide. -/
structure Tables.Lawful (t : Tables) : Prop where
  consistent : t.Consistent
  tracked : t.Tracked

section
variable {t u : Tables} (h : t.Lawful)
include h

/-- The Remap Table, the spares, the queue, the unit's record and the suspects stand. -/
theorem Tables.Lawful.congr (remap : u.remap = t.remap) (spares : u.spares = t.spares)
    (queue : u.retireQueue = t.retireQueue) (migration : u.migration = t.migration) (suspects : u.suspects = t.suspects) :
    u.Lawful :=
  ⟨h.consistent.congr remap spares migration,
    h.tracked.congr suspects queue fun frame => by rw [Tables.Copies, migration, Tables.Copies]⟩

theorem Tables.Lawful.enter (line word : Nat) (uncorrectable : Bool) : (t.enter line word uncorrectable).Lawful :=
  ⟨h.consistent.congr (by rw [Tables.enter_eq_set]) (by rw [Tables.enter_eq_set]) (by rw [Tables.enter_eq_set]),
    h.tracked.enter h.consistent line word uncorrectable⟩

theorem Tables.Lawful.decay : t.decay.Lawful := ⟨h.consistent.congr rfl rfl rfl, h.tracked.decay⟩

theorem Tables.Lawful.removeSuspect (frame : Nat) : (t.removeSuspect frame).Lawful :=
  ⟨h.consistent.congr rfl rfl rfl, h.tracked.removeSuspect frame⟩

theorem Tables.Lawful.engineReset : t.engineReset.Lawful := ⟨h.consistent.engineReset, h.tracked.engineReset⟩

theorem Tables.Lawful.withdrawn {k : Nat} (free : t.spares[k]? = some .free) : (t.setSpare k .failed).Lawful :=
  ⟨h.consistent.withdrawn free, h.tracked.congr rfl rfl fun _ => Iff.rfl⟩

theorem Tables.Lawful.installed {frame k : Nat} (allowed : t.installRefused frame k ≠ true) :
    ((t.putEntry frame (.active k)).setSpare k .assigned).Lawful := by
  simp only [ne_eq, Tables.installRefused_iff, not_or, not_not] at allowed
  obtain ⟨free, absent, -⟩ := allowed
  exact ⟨h.consistent.installed free absent, h.tracked.congr rfl rfl fun _ => Iff.rfl⟩

section
variable {r : RetireRequest} {rest : List RetireRequest} (queue : t.retireQueue = r :: rest)
include queue

theorem Tables.Lawful.refused : (({ t with retireQueue := rest } : Tables).setRetire r.frame .refused).Lawful :=
  ⟨h.consistent.congr rfl rfl rfl, h.tracked.refused queue⟩

theorem Tables.Lawful.started {k : Nat} (idle : t.migration = none) (free : t.spares[k]? = some .free) :
    (({ t with retireQueue := rest } : Tables).started r k).Lawful := by
  have popped : ({ t with retireQueue := rest } : Tables).Consistent := h.consistent.congr rfl rfl rfl
  exact ⟨popped.started r idle free, h.tracked.started queue k idle⟩

end

theorem Tables.Lawful.joined {r : RetireRequest} (free : ¬ t.retiring r.frame = true) :
    (({ t with retireQueue := t.retireQueue ++ [r] } : Tables).setRetire r.frame .queued).Lawful := by
  rw [Tables.retiring_iff, not_or, h.consistent.migratingFrame_iff_copies] at free
  exact ⟨h.consistent.congr rfl rfl rfl, h.tracked.joined free.2 free.1⟩

theorem Tables.Lawful.abortedQueued {r : RetireRequest} (inside : r ∈ t.retireQueue) :
    (({ t with retireQueue := t.retireQueue.filter fun q => !(q.frame == r.frame) } : Tables).setRetire r.frame
      .none).Lawful :=
  ⟨h.consistent.congr rfl rfl rfl, h.tracked.abortedQueued inside⟩

section
variable {m : MigrationRecord} (copying : t.migration = some m)
include copying

theorem Tables.Lawful.aborted : (t.aborted m).Lawful :=
  ⟨(h.consistent.reverted copying).congr rfl (t.revert_spares m).symm (t.revert_migration m).symm, h.tracked.aborted copying⟩

theorem Tables.Lawful.retired : (t.retired m).Lawful := ⟨h.consistent.retired copying, h.tracked.retired copying⟩

variable {n : MigrationRecord} (frame : n.frame = m.frame) (old : n.old = m.old) (target : n.target = m.target)
include frame old target

/-- The record changes in its counts and its step alone. -/
theorem Tables.Lawful.withRecord : ({ t with migration := some n } : Tables).Lawful := by
  refine ⟨⟨h.consistent.frames, h.consistent.named, h.consistent.assigned, h.consistent.target, ?_, fun e inside migrating => ?_⟩,
    h.tracked.congr rfl rfl fun f => ?_⟩
  · rintro _ ⟨⟩
    rw [frame, old, target]
    exact h.consistent.unit m copying
  · obtain ⟨x, copying', mine⟩ := h.consistent.entry e inside migrating
    cases copying.symm.trans copying'
    exact ⟨n, rfl, frame.trans mine⟩
  · rw [Tables.copies_iff rfl, Tables.copies_iff copying, frame]

theorem Tables.Lawful.advanced {cursor : Nat} (inFrame : cursor < 64) :
    ({ t.putEntry m.frame (.migrating m.old m.target cursor) with migration := some n } : Tables).Lawful :=
  ⟨h.consistent.advanced copying frame old target inFrame, h.tracked.congr rfl rfl fun f => by
    rw [Tables.copies_iff rfl, Tables.copies_iff copying, frame]⟩

end

end

/-! ### The state within a happening -/

/-- The laws of a retirement with RESET not asserted, but for the one that a cut-over suspends until the next request is
taken: requests may wait behind an IDLE unit. -/
structure State.Lawful (s : State) : Prop where
  live : s.resetAsserted = false
  tables : s.tables.Lawful
  idle : s.engine.state.retires = false → s.tables.migration = none
  anchorRead : ∀ t, s.arbiter.tenure = some t → t.work = .anchorRead → t.discarded = false → s.engine.state = .starting

/-- All the laws of a retirement, with RESET not asserted. -/
structure State.Served (s : State) : Prop extends s.Lawful where
  served : s.tables.migration = none → s.tables.retireQueue = []

theorem State.RetirementLaws.lawful {s : State} (h : s.RetirementLaws) : s.tables.Lawful := by
  refine ⟨h.tables, h.suspects, h.queueFrames, ?_, fun e inside => ?_, fun e inside => ?_⟩
  · rintro _ ⟨r, waits, rfl⟩ ⟨m, copying, same⟩
    exact h.queueNotMigrating m copying r waits same.symm
  · exact h.queuedEntries e (List.mem_flatMap.2 ⟨_, inside, Option.mem_toList.2 rfl⟩)
  · exact h.migratingEntries e (List.mem_flatMap.2 ⟨_, inside, Option.mem_toList.2 rfl⟩)

theorem State.RetirementLaws.served {s : State} (h : s.RetirementLaws) (live : s.resetAsserted = false) : s.Served where
  live := live
  tables := h.lawful
  idle := h.idleWhenOff
  anchorRead := h.anchorRead
  served := h.queueServed

/-- The laws of the tables are those that `State.RetirementLaws` states of them. -/
theorem State.retirementLaws_of_tables {s : State} (tables : s.tables.Lawful)
    (queueServed : s.tables.migration = none → s.tables.retireQueue = [])
    (idleWhenOff : s.engine.state.retires = false → s.tables.migration = none)
    (anchorRead : ∀ t, s.arbiter.tenure = some t → t.work = .anchorRead → t.discarded = false → s.engine.state = .starting)
    (clearedInReset : s.resetAsserted = true → s.tables.remap = []) : s.RetirementLaws := by
  have place {e : SuspectEntry} (inside : e ∈ s.tables.suspects.flatMap (·.toList)) : some e ∈ s.tables.suspects := by
    obtain ⟨p, member, here⟩ := List.mem_flatMap.1 inside
    rwa [← Option.mem_toList.1 here]
  exact
    { tables := tables.consistent
      suspects := tables.tracked.suspects
      queueFrames := tables.tracked.queueFrames
      queueNotMigrating := fun m copying r waits same => tables.tracked.apart r.frame ⟨r, waits, rfl⟩ ⟨m, copying, same.symm⟩
      queueServed := queueServed
      idleWhenOff := idleWhenOff
      queuedEntries := fun e inside => tables.tracked.queued e (place inside)
      migratingEntries := fun e inside => tables.tracked.migrating e (place inside)
      anchorRead := anchorRead
      clearedInReset := clearedInReset }

theorem State.Served.retirementLaws {s : State} (h : s.Served) : s.RetirementLaws :=
  State.retirementLaws_of_tables h.tables h.served h.idle h.anchorRead fun asserted => by
    rw [h.live] at asserted
    cases asserted

/-- Accounting changes no group but the tables that the laws look at. -/
theorem State.Lawful.of_accounted {s t : State} (h : s.Lawful) (a : Accounted s t) (tables : t.tables.Lawful)
    (idle : s.engine.state.retires = false → t.tables.migration = none) : t.Lawful where
  live := a.resetAsserted.trans h.live
  tables := tables
  idle := by rwa [a.engine]
  anchorRead := by
    rw [a.arbiter, a.engine]
    exact h.anchorRead

section
variable {s t : State} (h : s.Served)
include h

/-- The tables, the engine's state, the tenure and the RESET pin stand. -/
theorem State.Served.congr (tables : t.tables = s.tables) (engine : t.engine.state = s.engine.state)
    (tenure : t.arbiter.tenure = s.arbiter.tenure) (pin : t.resetAsserted = s.resetAsserted) : t.Served := by
  obtain ⟨⟨live, lawful, idle, anchorRead⟩, served⟩ := h
  constructor
  · constructor <;> simpa only [tables, engine, tenure, pin]
  · simpa only [tables]

theorem State.Served.of_accounted (a : Accounted s t) (tables : t.tables = s.tables) : t.Served :=
  h.congr tables (congrArg _ a.engine) (congrArg _ a.arbiter) a.resetAsserted

/-- New tables with the same queue, and the unit IDLE or not as before. -/
theorem State.Served.withTables (x : Tables) (lawful : x.Lawful) (queue : x.retireQueue = s.tables.retireQueue)
    (unit : x.migration = none ↔ s.tables.migration = none) : (s.withTables x).Served :=
  { h with
    tables := lawful
    idle := fun stopped => unit.2 (h.idle stopped)
    served := fun idle => queue.trans (h.served (unit.1 idle)) }

/-- A tenure begins that is no anchor read, or one ends. -/
theorem State.Served.withArbiter (x : Arbiter) (noAnchor : ∀ t, x.tenure = some t → t.work = .anchorRead →
    t.discarded = false → s.arbiter.tenure = some t) : (s.withArbiter x).Served :=
  { h with anchorRead := fun t tenure work wanted => h.anchorRead t (noAnchor t tenure work wanted) work wanted }

/-- While a migration is in progress the engine is in a state in which migrations go on (R108). -/
theorem State.Served.retires {m : MigrationRecord} (copying : s.tables.migration = some m) :
    s.engine.state.retires = true := by
  by_contra stopped
  cases copying.symm.trans (h.idle (by simpa using stopped))

end

/-! ### Accounting -/

section
variable {s : State} (h : s.Served)
include h

theorem State.Served.offer (e : EventRecord) : (s.offer e).Served := h.of_accounted (s.offer_accounted e) (s.offer_tables e)

theorem State.Served.present (k : CaptureKind) (source : Source) (line word : Nat) : (s.present k source line word).Served :=
  h.of_accounted (s.present_accounted ..) rfl

theorem State.Served.withAdmission (x : Admission) : (s.withAdmission x).Served := h.congr rfl rfl rfl rfl

theorem State.Served.complete (c : Completion) : (s.complete c).Served := h.withAdmission _

theorem State.Served.foldl_complete (l : List Completion) : (l.foldl State.complete s).Served := by
  induction l generalizing s with
  | nil => exact h
  | cons c l ih => exact ih (h.complete c)

end

/-- Requests are taken until one starts or none is left, where migrations go on, or where none may start (R72, R73). -/
theorem startFrom_served (l : List RetireRequest) {s : State} (h : s.Lawful) (queue : s.tables.retireQueue = l)
    (waits : s.engine.state.retires = true ∨ (s.tables.migration = none → l = [])) : (startFrom l s).Served := by
  induction l generalizing s with
  | nil => exact ⟨h, fun _ => queue⟩
  | cons r rest ih =>
    unfold startFrom
    have popped : Accounted s (s.withTables { s.tables with retireQueue := rest }) := .withTables _ _ rfl rfl
    split
    · rename_i starts
      have idle := Option.isNone_iff_eq_none.1 starts.1
      dsimp only
      split
      · obtain ⟨engine, tables, -⟩ := State.refuseStart_eq (s.withTables { s.tables with retireQueue := rest }) r
        refine ih (h.of_accounted (popped.trans (State.refuseStart_accounted ..)) ?_ fun _ => ?_) ?_ (.inl ?_)
        · rw [tables]
          exact h.tables.refused queue
        · rw [tables]
          exact idle
        · rw [tables]
          rfl
        · rw [engine]
          exact starts.2
      · rename_i k spare
        have tables := congrArg State.tables
          (State.beginMigration_eq (s.withTables { s.tables with retireQueue := rest }) r k)
        refine ⟨h.of_accounted (popped.trans (State.beginMigration_accounted ..)) ?_ fun stopped => ?_, fun idle => ?_⟩
        · rw [tables]
          exact h.tables.started queue idle (Tables.lowestFreeSpare_iff.1 spare).1
        · cases starts.2.symm.trans stopped
        · rw [tables] at idle
          cases idle
    · rename_i stands
      refine ⟨h, fun idle => ?_⟩
      rcases waits with retires | empty
      · exact absurd ⟨Option.isNone_iff_eq_none.2 idle, retires⟩ stands
      · exact queue.trans (empty idle)

theorem State.Lawful.startMigrations {s : State} (h : s.Lawful) (retires : s.engine.state.retires = true) :
    s.startMigrations.Served := startFrom_served _ h rfl (.inl retires)

section
variable {s : State} (h : s.Served)
include h

/-- A request for a frame that is not retiring joins the queue where migrations go on (R67 to R69). -/
theorem State.Served.joinQueue (r : RetireRequest) (free : ¬ s.tables.retiring r.frame = true)
    (retires : s.engine.state.retires = true) : (s.joinQueue r).Served :=
  State.Lawful.startMigrations (s := s.withTables _)
    { h with tables := h.tables.joined free, idle := fun stopped => absurd (retires.symm.trans stopped) (by decide) } retires

/-- An offer is made where migrations go on alone (R95). -/
theorem State.Served.considerOffer (frame : Nat) : (s.considerOffer frame).Served := by
  unfold State.considerOffer
  split
  · exact h
  · split
    · rename_i conditions
      unfold State.offerAuto
      split
      · exact h
      · rename_i free
        split
        · exact h.offer _
        · exact h.joinQueue _ free conditions.1
    · exact h

/-- A detection is entered, and its frame may be offered (R90 to R95). -/
theorem State.Served.enterDetection (line word : Nat) (uncorrectable : Bool) :
    (s.enterDetection line word uncorrectable).Served :=
  (h.withTables _ (h.tables.enter line word uncorrectable) (by rw [Tables.enter_eq_set])
    (by rw [Tables.enter_eq_set])).considerOffer _

theorem State.Served.handCorrected (source : Source) (tag : Option Tag) (line word : Nat) (b : BitPos) :
    (s.handCorrected source tag line word b).Served := ((h.offer _).present ..).enterDetection ..

theorem State.Served.handUncorrectable (source : Source) (tag : Option Tag) (line word : Nat) :
    (s.handUncorrectable source tag line word).Served := ((h.offer _).present ..).enterDetection ..

theorem State.Served.handWord (source : Source) (tag : Option Tag) (line : Nat) (r : WordReport) :
    (State.handWord source tag line s r).Served := by
  unfold State.handWord
  split
  · exact h.handCorrected ..
  · exact h.handUncorrectable ..
  all_goals exact h

theorem State.Served.handReadWord (line : Nat) (r : WordReport) : (State.handReadWord line s r).Served := by
  unfold State.handReadWord
  split
  · exact (h.offer _).present ..
  all_goals exact h.handWord ..

theorem State.Served.handDrainWord (line : Nat) (r : WordReport) : (State.handDrainWord line s r).Served := by
  unfold State.handDrainWord
  split
  · exact h.handCorrected ..
  · exact ((h.offer _).present ..).enterDetection ..
  · exact (h.offer _).present ..
  all_goals exact h

/-- What each word's hand-on keeps, the hand-on of a tenure's words does. -/
theorem State.Served.foldl {f : State → WordReport → State} (one : ∀ {t : State}, t.Served → ∀ r, (f t r).Served)
    (rs : List WordReport) : (rs.foldl f s).Served := by
  induction rs generalizing s with
  | nil => exact h
  | cons r rs ih => exact ih (one h r)

theorem State.Served.handWords (source : Source) (tag : Option Tag) (line : Nat) (rs : List WordReport) :
    (s.handWords source tag line rs).Served := h.foldl (fun k r => k.handWord source tag line r) rs

/-! ### The Migration Unit -/

/-- The end of a Copy Step: the cursor advances, or the frame cuts over and the next request is taken (R76 to R79). -/
theorem State.Served.endCopyStep {m : MigrationRecord} (copying : s.tables.migration = some m) (line : Nat)
    (reports : List WordReport) : (s.endCopyStep m line reports).Served := by
  obtain ⟨cursor, inFrame, entry⟩ := h.tables.consistent.entryOf_migrating copying
  rcases Nat.lt_or_eq_of_le (Nat.le_of_lt_succ inFrame) with below | rfl
  · rw [State.endCopyStep_advances entry below]
    have handed := h.of_accounted (s.handCopy_accounted m.origin.tag? line reports) (s.handCopy_tables ..)
    refine handed.withTables _ (h.tables.advanced (n := { m.count reports with step := .waiting }) (cursor := cursor + 1)
      copying rfl rfl rfl (Nat.succ_lt_succ below)) (by simp) (by simp [copying])
  · rw [State.endCopyStep_cutsOver line reports (Tables.cursorOf_migrating entry)]
    have accounted := s.cutOverDone_accounted (m.count reports) line reports
    have retired : (s.tables.retired m).Lawful := h.tables.retired copying
    refine State.Lawful.startMigrations (h.toLawful.of_accounted accounted retired fun _ => rfl) ?_
    rw [accounted.engine]
    exact h.retires copying

/-- A queued RETIRE aborted leaves the queue (R82). -/
theorem State.Served.abortQueued {r : RetireRequest} (inside : r ∈ s.tables.retireQueue) : (s.abortQueued r).Served := by
  rw [State.abortQueued_eq]
  have accounted := (s.offer_accounted (retireEvent .retireAborted r.origin r.frame none false 0)).trans
    (State.completeOrigin_accounted _ r.origin .aborted 0 0 0 0 0#28)
  have before := h.of_accounted accounted (by simp)
  exact { before with
    tables := h.tables.abortedQueued inside
    idle := fun stopped => h.idle (accounted.engine ▸ stopped)
    served := fun idle => by simp [h.served idle] }

theorem State.Served.discardTenure (f : Work → Bool) : (s.discardTenure f).Served := by
  refine h.withArbiter _ fun t tenure _ wanted => ?_
  obtain ⟨x, before, became⟩ := Option.map_eq_some_iff.1 tenure
  split at became
  · rw [← became] at wanted
    cases wanted
  · rw [before, became]

/-- The migrating RETIRE aborted leaves the unit IDLE, before the next request is taken (R83). -/
theorem State.Served.abortMigration {m : MigrationRecord} (copying : s.tables.migration = some m) :
    (s.abortMigration m).Lawful ∧ (s.abortMigration m).engine = s.engine := by
  have discarded := h.discardTenure (· == .copyStep)
  have accounted := (((s.discardTenure (· == .copyStep)).offer_accounted
    (retireEvent .retireAborted m.origin m.frame (some m.target) false 0)).trans (State.completeOrigin_accounted _ m.origin
      .aborted (s.tables.cursorOf m.frame) m.corrected m.uncorrectable m.poisonedWords
      (retireResult m.target m.poisonedLines))).thenTables (s.tables.aborted m)
    (by rw [State.completeOrigin_tables, State.offer_tables]; rfl)
    (by rw [State.completeOrigin_tables, State.offer_tables]; rfl)
  rw [State.abortMigration_eq, ← State.withArbiter_offer, ← State.discardTenure_copyStep]
  exact ⟨discarded.toLawful.of_accounted accounted (h.tables.aborted copying) fun _ => rfl, accounted.engine⟩

end

end Sys2Proof.Machine
end

section
/-!
The laws of a retirement through admission, Engine Control, the Host Port, the Patrol Unit and the arbiter's grants: none of
them changes the tables but by the operations of chapters 4 to 6.
-/

namespace Sys2Proof.Machine

/-! ### Issue and slots (R134 to R147) -/

/-- Where commands issue, migrations go on (R108). -/
theorem EngineState.retires_of_issues {st : EngineState} (issues : st.issues = true) : st.retires = true := by
  revert issues
  cases st <;> decide

section
variable {s : State} (h : s.Served)
include h

theorem State.Served.setSlot (k : Nat) (p : Option Slot) : (s.setSlot k p).Served := h.withAdmission _

/-- What the head does when it issues (R134, R137). -/
theorem State.Served.issueCommand (issues : s.engine.state.issues = true) (tag : Tag) (c : Command) :
    (s.issueCommand tag c).Served := by
  cases c with
  | slot sc =>
    simp only [State.issueCommand, State.occupySlot]
    split
    · exact h.setSlot ..
    · exact h
  | retire frame =>
    simp only [State.issueCommand, State.issueRetire]
    split
    · exact h.complete _
    · rename_i free
      split
      · exact h.complete _
      · exact h.joinQueue _ free (EngineState.retires_of_issues issues)
  | install frame spare =>
    simp only [State.issueCommand, State.issueInstall]
    split
    · exact h.complete _
    · rename_i allowed
      exact (h.withTables _ (h.tables.installed allowed) rfl Iff.rfl).complete _
  | withdrawSpare spare =>
    simp only [State.issueCommand, State.issueWithdraw]
    split
    · rename_i free
      have here : s.tables.spares[spare]? = some .free := by
        cases place : s.tables.spares[spare]? with
        | none => rw [place] at free; cases free
        | some st => rw [place] at free; exact congrArg some free
      exact (h.withTables _ (h.tables.withdrawn here) rfl Iff.rfl).complete _
    · exact h.complete _
  | clearSuspect frame =>
    simp only [State.issueCommand, State.issueClearSuspect]
    split
    · exact h.complete _
    · split
      · exact h.complete _
      · exact (h.withTables _ (h.tables.removeSuspect frame) rfl Iff.rfl).complete _
  | setRegion index valid base exponent attributes =>
    exact (h.withTables { s.tables with
      regions := s.tables.regions.set index (if valid then some ⟨base, exponent, attributes⟩ else none) }
      (h.tables.congr rfl rfl rfl rfl rfl) rfl Iff.rfl).complete _
  | setPatrol enable interval restart => exact h.congr rfl rfl rfl rfl
  | query frame => exact h.complete _
  | fence => exact h.complete _
  | abort target => exact h

end

theorem issueFrom_served (l : List PendingCommand) {s : State} (h : s.Served) : (issueFrom l s).Served := by
  induction l generalizing s with
  | nil => exact h
  | cons p rest ih =>
    unfold issueFrom
    split
    · rename_i issues
      have left := h.withAdmission { s.admission with pendingList := rest }
      exact ih (left.issueCommand issues.1 p.tag p.command)
    · exact h

section
variable {s : State} (h : s.Served)
include h

theorem State.Served.issueAll : s.issueAll.Served := issueFrom_served _ h

theorem State.Served.endSlot (k : Nat) (sl : Slot) (st : Status) : (s.endSlot k sl st).Served :=
  ((h.foldl_complete _).setSlot k none).issueAll

/-- The end of a slot's tenure (R139). -/
theorem State.Served.endSlotTenure (k : Nat) (sl : Slot) (line : Nat) (rs : List WordReport) :
    (s.endSlotTenure k sl line rs).Served := by
  have handed := h.handWords sl.command.source (some sl.tag) line rs
  unfold State.endSlotTenure
  dsimp only
  repeat' split
  · exact handed.endSlot ..
  · exact handed.endSlot ..
  · exact handed.setSlot ..
  · exact handed.setSlot ..

/-- An ABORT is carried out (R132, R133). -/
theorem State.Served.abort (tag target : Tag) : (s.abort tag target).Served := by
  unfold State.abort
  split
  · exact (((h.withAdmission _).complete _).complete _).issueAll
  · split
    · exact h.setSlot ..
    · exact (((h.complete _).setSlot ..).complete _).issueAll
  · rename_i r found
    exact ((h.abortQueued (State.abortTarget_queued found)).complete _).issueAll
  · rename_i m found
    have copying := s.abortTarget_migrating target m found
    obtain ⟨aborted, engine⟩ := h.abortMigration copying
    have completed : ((s.abortMigration m).complete (abortCompletion tag .success)).Lawful := { aborted with }
    refine (completed.startMigrations ?_).issueAll
    exact (congrArg (·.state.retires) engine).trans (h.retires copying)
  · exact (h.complete _).issueAll

/-- A record judged, and refused, carried out or admitted (R131). -/
theorem State.Served.takeRecord (r : CommandRecord) : (s.takeRecord r).Served := by
  unfold State.takeRecord
  split
  · exact h.complete _
  · exact h.abort ..
  · exact (h.withAdmission _).issueAll

/-! ### Engine Control (R109 to R124) -/

/-- The engine's registers change and its state stands. -/
theorem State.Served.withRegisters (f : Engine → Engine) (same : (f s.engine).state = s.engine.state) :
    (s.modifyEngine f).Served := h.congr rfl same rfl rfl

/-- The engine moves from a state other than STARTING to one in which migrations go on. -/
theorem State.Served.moves (f : Engine → Engine) (notStarting : s.engine.state ≠ .starting)
    (retires : (f s.engine).state.retires = true) : (s.modifyEngine f).Served :=
  { h with
    idle := fun stopped => absurd (retires.symm.trans stopped) (by decide)
    anchorRead := fun t tenure work wanted => absurd (h.anchorRead t tenure work wanted) notStarting }

theorem State.Served.halt (cause : HaltCause) : (s.halt cause).Served := by
  unfold State.halt
  split
  · rename_i posts
    have notStarting : s.engine.state ≠ .starting := fun starting => by rw [starting] at posts; cases posts
    have halted := h.moves (fun e => { e with state := .halted, haltCause := cause }) notStarting rfl
    exact halted.congr rfl rfl rfl rfl
  · exact h

/-- An engine reset leaves the unit IDLE, the queue empty, and an anchor read in tenure discarded (R124, R125). -/
theorem State.Served.engineReset : s.engineReset.Served := by
  rw [State.engineReset_eq, Tables.engineReset_eq]
  have lawful := h.tables.engineReset
  rw [Tables.engineReset_eq] at lawful
  refine ⟨⟨h.live, lawful, fun _ => rfl, fun t tenure work wanted => ?_⟩, fun _ => rfl⟩
  obtain ⟨x, -, became⟩ := Option.map_eq_some_iff.1 tenure
  split at became
  · rename_i port
    rw [became, work] at port
    exact absurd port (by decide)
  · rw [← became] at wanted
    cases wanted

/-- START: from OFF the engine begins to start, from QUIESCED it runs again (R111, R115). -/
theorem State.Served.startAction : s.startAction.Served := by
  unfold State.startAction
  split
  · rename_i off
    unfold State.startFromOff
    dsimp only
    have cleared := h.withRegisters (fun e =>
      { e with startError := .none, sqTail := 0#16, cqHead := 0#16, eqHead := 0#16 }) rfl
    split
    · exact cleared.withRegisters _ rfl
    · exact { cleared with
        idle := fun _ => h.idle (by rw [off]; rfl)
        anchorRead := fun _ _ _ _ => rfl }
  · rename_i quiesced
    exact h.moves _ (by rw [quiesced]; decide) rfl
  all_goals exact h

theorem State.Served.quiesceTest : s.quiesceTest.Served := by
  unfold State.quiesceTest
  split
  · rename_i quiet
    exact h.moves _ (by rw [quiet.1]; decide) rfl
  · exact h

theorem State.Served.quiesceAction : s.quiesceAction.Served := by
  unfold State.quiesceAction
  split
  · rename_i running
    exact (h.moves (fun e => { e with state := .quiescing }) (by rw [running]; decide) rfl).quiesceTest
  all_goals exact h

/-- A CTRL write takes effect (R109). -/
theorem State.Served.writeCtrl (v : BitVec 32) : (s.writeCtrl v).Served := by
  have enabled := h.withRegisters (fun e => { e with enables := enablesOfValue v }) rfl
  unfold State.writeCtrl
  dsimp only
  repeat' split
  · exact enabled.engineReset
  · exact enabled.startAction
  · exact enabled.quiesceAction
  · exact enabled

theorem State.Served.writeSqTail (v : BitVec 16) : (s.writeSqTail v).Served := by
  unfold State.writeSqTail
  repeat' split
  · exact h.withRegisters _ rfl
  · exact h.halt _
  · exact h.withRegisters _ rfl

theorem State.Served.writeCqHead (v : BitVec 16) : (s.writeCqHead v).Served := by
  unfold State.writeCqHead
  repeat' split
  · exact h.withRegisters _ rfl
  · exact h.halt _
  · exact h.withRegisters _ rfl

theorem State.Served.writeEqHead (v : BitVec 16) : (s.writeEqHead v).Served := by
  unfold State.writeEqHead
  repeat' split
  · exact h.withRegisters _ rfl
  · exact h.halt _
  · exact h.withRegisters _ rfl

theorem State.Served.deliver (target : PostedRegister) (v : BitVec 32) : (s.deliver target v).Served := by
  cases target
  · exact h.writeCtrl v
  · exact h.writeSqTail _

theorem State.Served.freeChannel : s.freeChannel.Served := h.withArbiter _ (by rintro _ ⟨⟩)

/-- The anchor read ends in STARTING, with no tenure behind it: the start fails, or the engine runs or halts (R112 to
R114). -/
theorem State.Served.endAnchorRead (starting : s.engine.state = .starting) (free : s.arbiter.tenure = none) (line : Nat)
    (rs : List WordReport) : (s.endAnchorRead line rs).Served := by
  have handed := h.handWords .fetch none line rs
  have accounted := s.handWords_accounted .fetch none line rs
  have still : (s.handWords .fetch none line rs).engine.state = .starting := by rw [accounted.engine, starting]
  have noTenure : (s.handWords .fetch none line rs).arbiter.tenure = none := by rw [accounted.arbiter, free]
  have failed (e : StartError) : ((s.handWords .fetch none line rs).failStart e).Served :=
    { handed with
      idle := fun _ => handed.idle (by rw [still]; rfl)
      anchorRead := fun t tenure => by cases noTenure.symm.trans tenure }
  unfold State.endAnchorRead
  dsimp only
  split
  · exact failed _
  · split
    · have accepted (a : AnchorRecord) : (((s.handWords .fetch none line rs).withTables
          { (s.handWords .fetch none line rs).tables with defaults := a.attributes }).modifyEngine
            fun e => e.accept a).Served :=
        { handed with
          tables := handed.tables.congr rfl rfl rfl rfl rfl
          idle := by rintro ⟨⟩
          anchorRead := fun t tenure => by cases noTenure.symm.trans tenure }
      unfold State.acceptAnchor State.judgeIndices
      repeat' split
      · exact (accepted _).halt _
      · exact (accepted _).halt _
      · exact (accepted _).halt _
      · exact accepted _
    · exact failed _

/-- The end of a fetch (R130). -/
theorem State.Served.endFetch (line : Nat) (rs : List WordReport) : (s.endFetch line rs).Served := by
  have handed : (s.advanceFetch.handWords .fetch none line rs).Served := State.Served.handWords (h.withRegisters _ rfl) ..
  unfold State.endFetch
  dsimp only
  repeat' split
  · exact handed.halt _
  · exact handed.takeRecord _
  · exact handed

end

/-! ### The Host Port (R28 to R41) -/

theorem deliverFrom_served (l : List PostEntry) {s : State} (h : s.Served) : (deliverFrom l s).Served := by
  induction l generalizing s with
  | nil => exact h
  | cons e rest ih =>
    cases e with
    | memory line mask data => exact h
    | register target v =>
      have left : (s.setBuffer rest).Served := h.congr rfl rfl rfl rfl
      exact ih (left.deliver target v)

section
variable {s : State} (h : s.Served)
include h

theorem State.Served.withPort (x : Port) : (s.withPort x).Served := h.congr rfl rfl rfl rfl

theorem State.Served.acceptEntry (e : PostEntry) : (s.acceptEntry e).Served := by
  have answered (code : ResponseCode) : (s.respond code []).Served := h.withPort _
  have joined : ((s.respond .accepted []).joinBuffer e).Served := deliverFrom_served _ ((answered .accepted).withPort _)
  unfold State.acceptEntry
  repeat' split
  · exact (answered .lineProtected).offer _
  · exact joined
  · exact joined

theorem State.Served.presentWrite (e : PostEntry) : (s.presentWrite e).Served := by
  unfold State.presentWrite
  split
  · exact h.acceptEntry e
  · exact h.withPort _

theorem State.Served.acceptHeld : s.acceptHeld.Served := by
  unfold State.acceptHeld
  split
  · exact State.Served.acceptEntry (h.withPort _) _
  all_goals exact h

/-- The end of a host read (R32, R33). -/
theorem State.Served.endHostRead (t : Tenure) : (s.endHostRead t).Served := by
  have answered : ((s.freeChannel.respond (readCode t.reports) (deliveredWords t.reports)).hold .idle).Served :=
    (h.freeChannel.withPort _).withPort _
  exact answered.foldl (fun k r => k.handReadWord t.line r) t.reports

/-- The end of a drain (R36, R37). -/
theorem State.Served.endDrain (t : Tenure) : (s.endDrain t).Served :=
  State.Served.acceptHeld (deliverFrom_served _
    (State.Served.foldl (h.freeChannel.withPort _) (fun k r => k.handDrainWord t.line r) t.reports))

theorem State.Served.withNews (x : News) : (s.withNews x).Served := h.congr rfl rfl rfl rfl

/-! ### The Patrol Unit (R102 to R104) -/

theorem State.Served.withPatrol (x : Patrol) : (s.withPatrol x).Served := h.congr rfl rfl rfl rfl

theorem State.Served.endPass : s.endPass.Served :=
  State.Served.withPatrol ((h.offer _).withTables _ (h.offer _).tables.decay rfl Iff.rfl) _

theorem State.Served.expire : s.expire.Served := by
  unfold State.expire
  split
  · exact h.withPatrol _
  · exact h.endPass

theorem State.Served.takePatrolTenure (t : Tenure) : (State.takePatrolTenure t s).Served := by
  have handed := h.handWords .patrol none t.line t.reports
  unfold State.takePatrolTenure State.patrolMovesOn
  repeat' split
  · exact handed.withPatrol _
  · exact handed.withPatrol _
  · exact (handed.withPatrol _).endPass

/-! ### The grants (R22 to R26) -/

omit h in
/-- RING presents an anchor read in STARTING alone (R21). -/
theorem State.ringWork_anchor {line : Nat} (presented : s.ringWork = some (.anchor line)) :
    s.engine.state = .starting := by
  have posts (r : Rings) : s.postWork r ≠ some (.anchor line) := by
    unfold State.postWork State.eventWork State.fetchWork
    repeat' split
    all_goals rintro ⟨⟩
  unfold State.ringWork at presented
  split at presented
  · assumption
  · obtain ⟨r, -, posted⟩ := Option.bind_eq_some_iff.1 presented
    exact absurd posted (posts r)
  · obtain ⟨r, -, posted⟩ := Option.bind_eq_some_iff.1 presented
    exact absurd posted (posts r)
  · obtain ⟨r, -, posted⟩ := Option.bind_eq_some_iff.1 presented
    exact absurd posted (posts r)
  all_goals cases presented

/-- A tenure begins; an anchor read begins in STARTING alone (R17, R111). -/
theorem State.Served.beginTenure (work : Work) (line : Nat) (e : TenureEffect)
    (anchor : work = .anchorRead → s.engine.state = .starting) : (s.beginTenure work line e).Served :=
  { h with
    anchorRead := by
      rintro _ ⟨⟩ read _
      exact anchor read }

theorem State.Served.grantPort : s.grantPort.Served := by
  unfold State.grantPort
  split
  · exact h.beginTenure _ _ _ nofun
  · exact h.beginTenure _ _ _ nofun
  · exact h

/-- The Copy Step at the cursor is in its tenure (R75). -/
theorem State.Served.grantMigration : s.grantMigration.Served := by
  unfold State.grantMigration
  split
  · rename_i m copying
    have began := h.beginTenure .copyStep (m.frame * 64 + s.tables.cursorOf m.frame)
      (s.copyEffect (m.frame * 64 + s.tables.cursorOf m.frame)) nofun
    exact began.withTables _ (h.tables.withRecord (n := { m with step := .inTenure }) copying rfl rfl rfl) rfl
      (by simp [State.beginTenure, copying])
  · exact h

theorem State.Served.grantRing : s.grantRing.Served := by
  unfold State.grantRing
  split
  · rename_i line presented
    exact State.Served.withRegisters (h.beginTenure _ _ _ fun _ => State.ringWork_anchor presented) _ rfl
  · unfold State.postCompletion
    exact State.Served.withRegisters ((h.beginTenure .completionPost _ _ nofun).withAdmission _) _ rfl
  · unfold State.postEvent
    exact State.Served.withRegisters (State.Served.withNews (h.beginTenure .eventPost _ _ nofun) _) _ rfl
  · exact h.beginTenure _ _ _ nofun
  · exact h

theorem State.Served.grantSlot (k : Nat) : (s.grantSlot k).Served := by
  unfold State.grantSlot
  split
  · exact (h.beginTenure (.slotStep k) _ _ nofun).setSlot ..
  · exact h

theorem State.Served.grantPatrol : s.grantPatrol.Served := by
  unfold State.grantPatrol
  split
  · exact (h.beginTenure .patrolStep _ _ nofun).withPatrol _
  all_goals exact h

theorem State.Served.grant (r : Requester) : (s.grant r).Served := by
  cases r with
  | port => exact h.grantPort
  | migration => exact h.grantMigration
  | ring => exact h.grantRing
  | slot k => exact h.grantSlot k
  | patrol => exact h.grantPatrol

end

theorem arbitrateFrom_served (n : Nat) {s : State} (h : s.Served) : (arbitrateFrom n s).Served := by
  induction n generalizing s with
  | zero => exact h
  | succ n ih =>
    have noted (r : Requester) : (s.noteGrant r).Served := h.congr rfl rfl rfl rfl
    unfold arbitrateFrom
    repeat' split
    · exact h
    · exact h
    · exact ih ((noted _).endSlot ..)
    · exact (noted _).grant _

/-- The end of a happening: the grants (R22), the QUIESCED test (R116), ATTN (R126). -/
theorem State.Served.conclude {s : State} (h : s.Served) : s.conclude.Served :=
  (arbitrateFrom_served _ h).quiesceTest.congr rfl rfl rfl rfl

end Sys2Proof.Machine
end

section
/-!
Every command keeps the laws of a retirement (R51, R66, R69, R72, R89). Settled here: O38.
-/

namespace Sys2Proof.Machine

/-! ### The release of a reset (R1, R48, R62) -/

/-- The release finds no entry, so a pool of FREE spares serves (R48, R62). -/
theorem State.RetirementLaws.sampleStraps {s : State} (h : s.RetirementLaws) (asserted : s.resetAsserted = true)
    (size : BitVec 3) (spare : BitVec 2) : (s.sampleStraps size spare).RetirementLaws := by
  have noEntry (e : RemapEntry) : e ∉ s.tables.remap := by simp [h.clearedInReset asserted]
  have pool (state : SpareState) (used : state ≠ .free) (k : Nat) :
      (List.replicate (Straps.spareFrames ⟨size, spare⟩) SpareState.free)[k]? ≠ some state := fun place =>
    used (List.eq_of_mem_replicate (List.mem_of_getElem? place))
  have consistent : (s.sampleStraps size spare).tables.Consistent :=
    { h.tables with
      assigned := fun k => iff_of_false (pool .assigned (by decide) k) fun ⟨e, inside, _⟩ => noEntry e inside
      target := fun k => iff_of_false (pool .target (by decide) k) fun ⟨e, inside, _⟩ => noEntry e inside }
  exact State.retirementLaws_of_tables ⟨consistent, h.lawful.tracked.congr rfl rfl fun _ => Iff.rfl⟩ h.queueServed
    h.idleWhenOff h.anchorRead (by rintro ⟨⟩)

/-! ### One command -/

section
variable {s t : State} (h : s.RetirementLaws)
include h

/-- A host request: the port takes it with RESET deasserted, or nothing happens (R1, R28). -/
theorem State.RetirementLaws.hostRequest {f : State → State} (run : s.hostRequest f = .next t)
    (taken : s.Served → (f s).Served) : t.RetirementLaws := by
  cases run
  split
  · rename_i takes
    simp only [State.hostTakes, Bool.and_eq_true, Bool.not_eq_true'] at takes
    exact (taken (h.served takes.1)).retirementLaws
  · exact h

/-- The end of a tenure of the engine's: its requester takes the reports, unless they are discarded (R17, R18). -/
theorem State.RetirementLaws.endTenure {f : Work → Bool} {take : Tenure → State → State} (run : s.endTenure f take = .next t)
    (taken : ∀ x, s.Served → s.arbiter.tenure = some x → f x.work = true → x.discarded = false →
      (take x s.freeChannel).Served) : t.RetirementLaws := by
  unfold State.endTenure at run
  split at run
  · rename_i x ending
    obtain ⟨live, tenure, work⟩ := State.ending_some ending
    have began := h.served live
    cases run
    split
    · exact began.freeChannel.conclude.retirementLaws
    · rename_i wanted
      exact (taken x began tenure work (by simpa using wanted)).conclude.retirementLaws
  · cases run
    exact h

/-- A record presented is taken with RESET deasserted, or nothing happens (log 7). -/
theorem State.RetirementLaws.presentRecord {tag : Tag} {c : Command} (run : s.presentRecord tag c = .next t) :
    t.RetirementLaws := by
  cases run
  split
  · rename_i admits
    simp only [State.admits, Bool.and_eq_true, Bool.not_eq_true'] at admits
    exact ((h.served admits.1.1.1.1).takeRecord _).conclude.retirementLaws
  · exact h

theorem State.RetirementLaws.hostReadEnd (run : execHostReadEnd s = .next t) : t.RetirementLaws := by
  unfold execHostReadEnd at run
  split at run
  · rename_i x ending
    cases run
    exact ((h.served (State.ending_some ending).1).endHostRead x).conclude.retirementLaws
  · cases run
    exact h

theorem State.RetirementLaws.drainEnd (run : execDrainEnd s = .next t) : t.RetirementLaws := by
  unfold execDrainEnd at run
  split at run
  · rename_i x ending
    cases run
    exact ((h.served (State.ending_some ending).1).endDrain x).conclude.retirementLaws
  · cases run
    exact h

theorem State.RetirementLaws.patrolExpiry (run : execPatrolExpiry s = .next t) : t.RetirementLaws := by
  cases run
  split
  · rename_i expires
    exact (h.served expires.1).expire.conclude.retirementLaws
  · exact h

end

section
variable {s : State} (h : s.Served)
include h

theorem State.Served.takeRead (line : Nat) (mask : BitVec 8) : (s.takeRead line mask).Served := by
  unfold State.takeRead
  repeat' split
  · exact h.withPort _
  · exact h.withPort _
  · exact State.Served.conclude (h.withPort _)

theorem State.Served.takeWrite (line : Nat) (mask : BitVec 64) (data : BitVec 512) :
    (s.takeWrite line mask data).Served := by
  unfold State.takeWrite
  repeat' split
  · exact h.withPort _
  · exact h.withPort _
  · exact (h.presentWrite _).conclude

theorem State.Served.postRegister (target : PostedRegister) (v : BitVec 32) : (s.postRegister target v).Served :=
  (h.presentWrite _).conclude

theorem State.Served.acceptCqHead (v : BitVec 32) : (s.acceptCqHead v).Served :=
  State.Served.conclude (State.Served.writeCqHead (h.withPort _) _)

theorem State.Served.acceptEqHead (v : BitVec 32) : (s.acceptEqHead v).Served :=
  State.Served.conclude (State.Served.writeEqHead (h.withPort _) _)

theorem State.Served.acceptAnchorWrite (v : BitVec 32) : (s.acceptAnchorWrite v).Served :=
  State.Served.withRegisters (h.withPort _) _ rfl

theorem State.Served.acceptFaultInfo (v : BitVec 32) : (s.acceptFaultInfo v).Served := by
  unfold State.acceptFaultInfo
  split
  · exact State.Served.withNews (h.withPort _) _
  · exact h.withPort _

/-- A register write by offset (R40). -/
theorem State.Served.writeRegister (offset : Nat) (v : BitVec 32) : (s.writeRegister offset v).Served := by
  unfold State.writeRegister
  repeat' split
  · exact h.postRegister ..
  · exact h.acceptAnchorWrite v
  · exact h.postRegister ..
  · exact h.acceptCqHead v
  · exact h.acceptEqHead v
  · exact h.acceptFaultInfo v
  · exact h.withPort _

theorem State.Served.takeCopyStep (x : Tenure) : (State.takeCopyStep x s).Served := by
  unfold State.takeCopyStep
  split
  · rename_i m copying
    exact h.endCopyStep copying ..
  · exact h

theorem State.Served.takeSlotTenure (x : Tenure) : (State.takeSlotTenure x s).Served := by
  unfold State.takeSlotTenure
  repeat' split
  · exact h.endSlotTenure ..
  all_goals exact h

end

/-- Every command that goes on keeps the laws of a retirement. -/
theorem State.RetirementLaws.of_exec {s t : State} {c : Instr} (h : s.RetirementLaws) (run : exec c s = .next t) :
    t.RetirementLaws := by
  cases c with
  | deviceReset powerOn =>
    cases run
    exact { State.retirementLaws_reset with }
  | deviceResetRelease size spare =>
    cases run
    split
    · rename_i asserted
      exact h.sampleStraps asserted size spare
    · exact h
  | disturbance frame line word change =>
    simp only [exec, execDisturbance] at run
    split at run
    · cases run
      exact { h with }
    · cases run
  | hostRead line mask => exact h.hostRequest (f := (·.takeRead line.toNat mask)) run fun k => k.takeRead ..
  | hostWrite line mask data => exact h.hostRequest (f := (·.takeWrite line.toNat mask data)) run fun k => k.takeWrite ..
  | start _ | quiesce _ | engineReset _ | enableBits _ | sqTail _ =>
    simp only [exec, execStart, execQuiesce, execEngineReset, execEnableBits, execSqTail] at run
    exact h.hostRequest run fun k => k.postRegister ..
  | cqHead v => exact h.hostRequest (f := (·.acceptCqHead v)) run fun k => k.acceptCqHead v
  | eqHead v => exact h.hostRequest (f := (·.acceptEqHead v)) run fun k => k.acceptEqHead v
  | anchor v => exact h.hostRequest (f := (·.acceptAnchorWrite v)) run fun k => k.acceptAnchorWrite v
  | faultInfoClear v =>
    exact h.hostRequest (f := (·.acceptFaultInfo (v ||| 0x80000000#32))) run fun k => k.acceptFaultInfo _
  | registerWriteOther offset v =>
    exact h.hostRequest (f := (·.writeRegister offset v)) run fun k => k.writeRegister offset v
  | hostReadEnd => exact h.hostReadEnd run
  | drainEnd => exact h.drainEnd run
  | anchorReadEnd =>
    exact h.endTenure (take := fun x s => s.endAnchorRead x.line x.reports) run fun x k tenure work wanted =>
      k.freeChannel.endAnchorRead (k.anchorRead x tenure (by simpa using work) wanted) rfl ..
  | fetchEnd =>
    exact h.endTenure (take := fun x s => s.endFetch x.line x.reports) run fun _ k _ _ _ => k.freeChannel.endFetch ..
  | ringPostEnd => exact h.endTenure (take := fun _ s => s) run fun _ k _ _ _ => k.freeChannel
  | copyStepEnd => exact h.endTenure (take := State.takeCopyStep) run fun x k _ _ _ => k.freeChannel.takeCopyStep x
  | slotTenureEnd => exact h.endTenure (take := State.takeSlotTenure) run fun x k _ _ _ => k.freeChannel.takeSlotTenure x
  | patrolTenureEnd =>
    exact h.endTenure (take := State.takePatrolTenure) run fun x k _ _ _ => k.freeChannel.takePatrolTenure x
  | patrolExpiry => exact h.patrolExpiry run
  | scrub _ _ _ _ | verify _ _ _ | fill _ _ _ _ | copy _ _ _ _ | retire _ _ | install _ _ _ | withdrawSpare _ _
  | query _ _ | clearSuspect _ _ | setRegion _ _ _ _ _ _ | setPatrol _ _ _ _ | fence _ | abort _ _ =>
    exact h.presentRecord run

/-- Settles O38: a step takes the front command off the queue, which the laws do not look at, and every command keeps them. -/
theorem stepsKeepRetirementLaws : Obligations.StepsKeepRetirementLaws := by
  intro s t laws stepped
  cases queue : s.pending with
  | nil =>
    cases (step_of_pending_nil queue).symm.trans stepped
    exact laws
  | cons c rest =>
    have left : (s.withPending rest).RetirementLaws := { laws with }
    exact left.of_exec ((step_of_pending_cons queue).symm.trans stepped)

end Sys2Proof.Machine
end
